-- ==== Sys2Proof/Word.lean ====
section
/-! DEFINITION. The word types of DPRB: a byte, a 16-bit index or length, a 32-bit command, response or
register word (spec/00_scope.md R6). All quantities are unsigned. -/

namespace Sys2Proof

/-- One byte of `storage` or of a payload stream (R6, R42). -/
abbrev Byte := BitVec 8

/-- An index register value, a storage address, or a length (R6: `IDX_W` = 16 bits). -/
abbrev Index := BitVec 16

/-- A command word, a response word, a payload word or a register value (R60, R62). -/
abbrev Word := BitVec 32

end Sys2Proof
end

