-- ==== Sys2Proof/Syntax.lean ====
section
/-! DEFINITION. The eighteen commands of DPRB command set 1, one constructor per row of
spec/opcode_table.json (spec/30_encoding.md R64), with the operands R65 gives each. A payload is part of its
command (R63): BULK_WRITE and FIND carry their payload bytes, whose number is the `len` operand, and LINE_CODING
carries its baud word. DP's `reset`, the synchroniser steps and the sequencer steps have no opcode (R64) and are
no constructors: they are `Machine.Move`s. -/

namespace Sys2Proof

/-- The two FIFO instances (R5 `NFIFO`): f = 0 is `host_to_device`, f = 1 is `device_to_host`. -/
inductive FifoId where
  | h2d
  | d2h
  deriving DecidableEq, Repr, Inhabited

/-- The commands of R64. -/
inductive Instr where
  /-- R90: enqueue one byte. -/
  | put (b : Byte)
  /-- R91: dequeue one byte. -/
  | get
  /-- R92: buffered bytes in the issuing side's view. -/
  | elems
  /-- R93: free bytes in the issuing side's view. -/
  | free
  /-- R100: enqueue the payload, all or nothing; `len` is the payload's length. -/
  | bulkWrite (payload : List Byte)
  /-- R101: dequeue `len` bytes, all or nothing. -/
  | bulkRead (len : Index)
  /-- R110: open the longest contiguous readable window. -/
  | peekR
  /-- R111: retire `len` bytes of the read window. -/
  | markC (len : Index)
  /-- R112: open the longest contiguous writable window. -/
  | peekW
  /-- R113: publish `len` bytes of the write window. -/
  | markP (len : Index)
  /-- R130: offset of the first occurrence of the payload; `len` is the payload's length. -/
  | find (pattern : List Byte)
  /-- R131: the byte at a logical offset. -/
  | peekAt (index : Index)
  /-- R114: read one byte of the read window. -/
  | ldb (addr : Index)
  /-- R115: write one byte of the write window. -/
  | stb (addr : Index) (b : Byte)
  /-- R80: construct FIFO `f` with a requested capacity. -/
  | init (f : FifoId) (capacity : BitVec 24)
  /-- R151: request a reconfiguration with these raw line settings. -/
  | lineCoding (stopRaw parityRaw dataRaw : Byte) (baud : Word)
  /-- R150: connection-state event. -/
  | lineState (dtr rts : Bool)
  /-- R152: read control or status register `n` (of FIFO `f` where it is per FIFO). -/
  | rdreg (f : FifoId) (n : BitVec 8)
  deriving DecidableEq, Repr

end Sys2Proof
end

