-- ==== Sys2Proof/Config.lean ====
section
/-! DEFINITION. What an implementation of DPRB fixes (spec/00_scope.md R5) and the free values. The parameters that
are plain data are the structure `Params`; a state holds one `Params`, which no step changes, so that a claim about
every state is a claim about every choice of them. The parameter `poll_fn` is a function: it is either the
reference instance of spec/60_exceptions.md R197 or an unknown instance of which only the laws of R196 are known.
The opaque constants have no body: no proof can see their values. -/

namespace Sys2Proof

/-- R60: the five command ports. -/
inductive PortId where
  /-- Producer of FIFO 0. -/
  | p0
  /-- Consumer of FIFO 0. -/
  | c0
  /-- Producer of FIFO 1. -/
  | p1
  /-- Consumer of FIFO 1. -/
  | c1
  /-- Control. -/
  | k
  deriving DecidableEq, Repr, Inhabited

/-- One turn of one agent (R198): a port runs one whole command, a synchroniser takes one named step
(spec/45_cdc_sync.md), the sequencer takes its step; and the hardware reset of R220, which is no agent's step but
comes from outside. -/
inductive Move where
  | port (p : PortId)
  | launchPut (f : FifoId)
  | landPut (f : FifoId)
  | launchGet (f : FifoId)
  | landGet (f : FifoId)
  | fsm
  | hardReset
  deriving DecidableEq, Repr, Inhabited

/-- R5 `TRANSFER_MODE`: which commands the hardware-side agent uses (R203). No rule of DPRB depends on it. -/
inductive TransferMode where
  | interruptDriven
  | dmaBatched
  deriving DecidableEq, Repr, Inhabited

/-- R5 `link_assert_fn`: any function of `dtr` and `rts`, as its table of values. -/
structure LinkAssert where
  /-- The value at `dtr` = 0, `rts` = 0. -/
  neither : Bool
  /-- The value at `dtr` = 1, `rts` = 0. -/
  dtrOnly : Bool
  /-- The value at `dtr` = 0, `rts` = 1. -/
  rtsOnly : Bool
  /-- The value at `dtr` = 1, `rts` = 1. -/
  both : Bool
  deriving DecidableEq, Repr

/-- Which instance of `poll_fn` the implementation has (R5, R196, R197). -/
inductive PollChoice where
  /-- The reference instance of R197. -/
  | reference
  /-- An instance of which nothing is known but the laws of R196. -/
  | unknown
  deriving DecidableEq, Repr

/-- The parameters of R5 that are plain data. `DEPTH[f]` is a power of two from 1 to 65536, held as its logarithm. -/
structure Params where
  /-- Log2 of `DEPTH[0]`. -/
  depthLog0 : Fin 17
  /-- Log2 of `DEPTH[1]`. -/
  depthLog1 : Fin 17
  /-- `SYNC_EAGER`. -/
  syncEager : Bool
  /-- `RESUME_RESPECTS_LINK`. -/
  resumeRespectsLink : Bool
  /-- `link_assert_fn`. -/
  linkAssert : LinkAssert
  /-- `TRANSFER_MODE`. -/
  transferMode : TransferMode
  /-- `poll_fn`. -/
  poll : PollChoice
  deriving DecidableEq, Repr

/-- The values R5 and spec/95_test_vectors.md section 0 use where a vector says nothing else: DEPTH[0] = 8,
DEPTH[1] = 16, `SYNC_EAGER` and `RESUME_RESPECTS_LINK` false, `link_assert_fn` = `dtr OR rts`, the reference
`poll_fn`. DESIGN CHOICE: the parameters are OPEN, and a reset state needs one choice of them (log entry 2). -/
def Params.default : Params where
  depthLog0 := 3
  depthLog1 := 4
  syncEager := false
  resumeRespectsLink := false
  linkAssert := { neither := false, dtrOnly := true, rtsOnly := true, both := true }
  transferMode := .interruptDriven
  poll := .reference

/-- A function that satisfies the laws of R196 for a minimum tick of 1; it shows only that lawful instances exist. -/
def Config.lawfulFn (b : Word) : Word := if b ≤ 9600#32 then 2#32 else 1#32

theorem Config.lawfulFn_min : ∀ b, 1#32 ≤ Config.lawfulFn b := by
  intro b
  unfold Config.lawfulFn
  split <;> decide

theorem Config.lawfulFn_antitone : ∀ b₁ b₂ : Word, 0#32 < b₁ → b₁ ≤ b₂ → Config.lawfulFn b₂ ≤ Config.lawfulFn b₁ := by
  intro b₁ b₂ _ h
  unfold Config.lawfulFn
  by_cases h₂ : b₂ ≤ 9600#32
  · rw [if_pos h₂, if_pos (BitVec.le_trans h h₂)]
    decide
  · rw [if_neg h₂]
    split <;> decide

theorem Config.lawfulFn_strict : Config.lawfulFn 115200#32 < Config.lawfulFn 9600#32 := by decide

/-- An instance of `poll_fn` with its `MIN_TICK`, carrying the laws P2, P3 and P4 of R196 (P1, total and a function of
the baud rate alone, is its type). The default values are used only to show that the type has an element. -/
structure PollInstance where
  /-- `MIN_TICK` (R5). -/
  minTick : Word := 1#32
  /-- `poll_fn` (R5). -/
  fn : Word → Word := Config.lawfulFn
  /-- P2: never less than the minimum platform tick. -/
  ge_minTick : ∀ b, minTick ≤ fn b := by exact Config.lawfulFn_min
  /-- P3: does not increase with speed. -/
  antitone : ∀ b₁ b₂ : Word, 0#32 < b₁ → b₁ ≤ b₂ → fn b₂ ≤ fn b₁ := by exact Config.lawfulFn_antitone
  /-- P4: 9600 baud is polled strictly less often than 115200 baud. -/
  strict : fn 115200#32 < fn 9600#32 := by exact Config.lawfulFn_strict
  deriving Inhabited

/-- The unknown instance of `poll_fn` (R5 OPEN, R196): no body, so a proof can use its laws and nothing else. -/
opaque Config.unknownPoll : PollInstance

/-- FREE VALUE: the value an RDREG of a control register that nothing has written yet returns, a fresh draw each time
(R38, spec/93_implementation_defined.md U4); log entry 4. -/
opaque Config.freeWord : Nat → Word

/-- FREE VALUE: whose turn it is when the environment has fixed none (R198: the order is not fixed); log entry 3. -/
opaque Config.freeMove : Nat → Move

end Sys2Proof
end

