-- ==== Sys2Proof/Machine/State.lean ====
section
/-! DEFINITION. The state of DPRB as plain data (spec/10_state.md R10 to R34), the reasons a step can stop, and the
state after hardware reset (R38, spec/70_reset_and_hazards.md R220). Beside the spec's state stand the model's own
fields: the parameters, the input streams and last response of each port (spec/30_encoding.md R60 to R63 give the
ports; what arrives at them is the environment's), the turns the agents take (spec/60_exceptions.md R198 leaves them
open), the counters of the free values, and two bits that remember whether a control register was ever written
(R221). -/

namespace Sys2Proof.Machine

open Sys2Proof

/-- R9: a side of one FIFO. -/
inductive Side where
  | producer
  | consumer
  deriving DecidableEq, Repr

/-- The bytes of one storage array that hold a value, sorted by address (R12); an address not listed was never
written and holds no value (R228). -/
abbrev Memory := List Host.Cell

/-- R20: a zero-copy window handed out and not yet retired. -/
structure Lease where
  ptr : Index
  run : Index
  deriving DecidableEq, Repr

/-- R10 to R21: the registers and the storage of one FIFO. -/
structure Fifo where
  /-- R10: constructed by a successful INIT. -/
  valid : Bool
  /-- R10: an INIT failed with `InvalidSize`. -/
  failed : Bool
  /-- R11. -/
  capacity : BitVec 17
  /-- R11. -/
  mask : Index
  /-- R12. -/
  storage : Memory
  /-- R13. -/
  putIndex : Index
  /-- R13. -/
  getIndex : Index
  /-- R15: the consumer's copy of `putIndex`. -/
  putSeen : Index
  /-- R15: the producer's copy of `getIndex`. -/
  getSeen : Index
  /-- R16. -/
  putMail : Option Index
  /-- R16. -/
  getMail : Option Index
  /-- R20: the consumer's open window. -/
  rdLease : Option Lease
  /-- R20: the producer's open window. -/
  wrLease : Option Lease
  /-- R21: sticky, set by `Contract`. -/
  fault : Bool
  deriving DecidableEq, Repr

/-- R38: one FIFO after hardware reset. No storage byte holds a value. -/
def Fifo.reset : Fifo where
  valid := false
  failed := false
  capacity := 0#17
  mask := 0#16
  storage := []
  putIndex := 0#16
  getIndex := 0#16
  putSeen := 0#16
  getSeen := 0#16
  putMail := none
  getMail := none
  rdLease := none
  wrLease := none
  fault := false

/-- R23: the states of the reconfiguration sequencer. -/
inductive FsmState where
  | rest
  | teardown
  | drain
  | clear
  | validate
  | retime
  | reinit
  | resume
  deriving DecidableEq, Repr

/-- R26. -/
inductive LinkState where
  | inactive
  | active
  deriving DecidableEq, Repr

/-- R28: `data_bits`. -/
inductive DataBits where
  | five
  | six
  | seven
  | eight
  deriving DecidableEq, Repr

/-- R28: `stop_bits`. -/
inductive StopBits where
  | one
  | two
  deriving DecidableEq, Repr

/-- R28: `parity`. -/
inductive Parity where
  | none
  | odd
  | even
  deriving DecidableEq, Repr

/-- R27: the raw requested line settings. -/
structure ReqCfg where
  baud : Word
  dataRaw : Byte
  parityRaw : Byte
  stopRaw : Byte
  deriving DecidableEq, Repr

/-- R28: the resolved line settings. -/
structure LineConfig where
  baudRate : Word
  dataBits : DataBits
  stopBits : StopBits
  parity : Parity
  deriving DecidableEq, Repr

/-- R30: the output events. -/
inductive Event where
  | uartDeinit
  | uartConfigure (settings : LineConfig)
  | activityClear
  deriving DecidableEq, Repr

/-- R66: the statuses. -/
inductive Status where
  | ok
  | invalidSize
  | full
  | empty
  | underflow
  | notFound
  | outOfRange
  | unsupportedLineSetting
  | notReady
  | busy
  | contract
  | illegal
  | alreadyInit
  deriving DecidableEq, Repr

/-- R62: one command's response: the fields of `rsp0`, the second word of the commands that have one, and the
payload out of BULK_READ. -/
structure Response where
  status : Status
  val : BitVec 24
  rsp1 : Option Word
  payload : List Byte
  deriving DecidableEq, Repr

/-- R60, R63: one port. The model's own record of what crosses it: the words and payload bytes that have arrived and
no command has taken yet, and the response of the port's latest command (`none` before its first). -/
structure PortIO where
  words : List Word
  bytes : List Byte
  response : Option Response
  deriving DecidableEq, Repr

/-- A port at which nothing has arrived and nothing was answered. -/
def PortIO.idle : PortIO where
  words := []
  bytes := []
  response := Option.none

/-- The state of the machine. -/
structure State where
  /-- R10 to R21, f = 0. -/
  fifo0 : Fifo
  /-- R10 to R21, f = 1. -/
  fifo1 : Fifo
  /-- R23. -/
  fsm : FsmState
  /-- R24. -/
  paused : Bool
  /-- R25. -/
  uartUp : Bool
  /-- R26. -/
  link : LinkState
  /-- R27. -/
  reqCfg : ReqCfg
  /-- R28. -/
  lineConfig : LineConfig
  /-- R28: VALIDATE has run since hardware reset. -/
  cfgValid : Bool
  /-- R28: the latest VALIDATE changed a requested field. -/
  coerced : Bool
  /-- R29. -/
  pollInterval : Word
  /-- R30: oldest first. -/
  events : List Event
  /-- The model's own: `reqCfg` was written since hardware reset (R221). -/
  reqWritten : Bool
  /-- The model's own: `pollInterval` was written since hardware reset (R221). -/
  pollWritten : Bool
  /-- The model's own: the parameters (R5); no step changes them. -/
  params : Params
  /-- The model's own: port P0 (R60). -/
  portP0 : PortIO
  /-- The model's own: port C0 (R60). -/
  portC0 : PortIO
  /-- The model's own: port P1 (R60). -/
  portP1 : PortIO
  /-- The model's own: port C1 (R60). -/
  portC1 : PortIO
  /-- The model's own: port K (R60). -/
  portK : PortIO
  /-- The model's own: the port whose command is being carried out. -/
  active : PortId
  /-- The model's own: the coming turns, as far as the environment has fixed them (R198). -/
  turns : List Move
  /-- The model's own: how many turns were left to `Config.freeMove`. -/
  freeTurns : Nat
  /-- The model's own: how many values were drawn from `Config.freeWord`. -/
  draws : Nat
  deriving DecidableEq, Repr

/-- R38, R220: the machine after hardware reset. The values of `reqCfg`, `lineConfig` and `pollInterval` are
unspecified there; DESIGN CHOICE: the values below (log entry 1), which no RDREG shows (log entry 4). -/
def State.reset : State where
  fifo0 := Fifo.reset
  fifo1 := Fifo.reset
  fsm := .rest
  paused := true
  uartUp := false
  link := .inactive
  reqCfg := { baud := 0#32, dataRaw := 0#8, parityRaw := 0#8, stopRaw := 0#8 }
  lineConfig := { baudRate := 0#32, dataBits := .eight, stopBits := .one, parity := .none }
  cfgValid := false
  coerced := false
  pollInterval := 0#32
  events := []
  reqWritten := false
  pollWritten := false
  params := Params.default
  portP0 := PortIO.idle
  portC0 := PortIO.idle
  portP1 := PortIO.idle
  portC1 := PortIO.idle
  portK := PortIO.idle
  active := .k
  turns := []
  freeTurns := 0
  draws := 0

/-- Why the machine stops with a fault. -/
inductive Fault where
  /-- Raised by GET, BULK_READ, LDB, PEEK_AT and FIND when they read a storage byte that nothing has written since
  hardware reset: "a fault of the model, not a value" (R228, U2). Safe: the hardware goes on with some value. -/
  | unwrittenByte
  /-- Raised by every storage access to an address outside the physical array, `DEPTH[f]` or above, which the spec
  says does not exist (R12, R40). No reachable state raises it. Safe: the machine stops. -/
  | noSuchAddress
  deriving DecidableEq, Repr

/-- Why a command has no meaning. -/
inductive Refusal where
  /-- Raised by `exec` for a command that has no meaning in this model; no arm raises it. Safe: the machine stops. -/
  | notModelled (mnemonic : String)
  deriving DecidableEq, Repr

/-- The outcome of a command or a step. -/
abbrev Result := Host.Outcome State Fault Refusal

end Sys2Proof.Machine
end

