-- ==== Sys2Proof/Machine/Ops.lean ====
section
/-! DEFINITION. The named operations over storage, registers, ports and statuses: `MemRead` and `MemWrite`
(spec/00_scope.md R7), the occupancy functions (spec/10_state.md R17), index advances (spec/30_encoding.md R71),
windows, responses, the RESET micro-op (spec/40_lifecycle.md R81), hardware reset (R220), and the reconfiguration as
a trap, its entry and its return (spec/60_exceptions.md R208, R209). -/

namespace Sys2Proof.Machine

open Sys2Proof

/-! ## Storage: sorted lists of cells -/

/-- The byte an address holds, if anything was ever written there (R12, R228). -/
def Memory.read : Memory → Nat → Option Byte
  | [], _ => none
  | (a, b) :: rest, x => if x = a then some b else Memory.read rest x

/-- Storage with one byte written; the list stays sorted. -/
def Memory.write : Memory → Nat → Byte → Memory
  | [], x, v => [(x, v)]
  | (a, b) :: rest, x, v =>
    if x < a then (x, v) :: (a, b) :: rest
    else if x = a then (x, v) :: rest
    else (a, b) :: Memory.write rest x v

/-- Every address of the list is at least `lo`, and addresses rise strictly. -/
def Memory.sortedFrom : Nat → Memory → Bool
  | _, [] => true
  | lo, (a, _) :: rest => decide (lo ≤ a) && Memory.sortedFrom (a + 1) rest

/-- The canonical form: addresses rise strictly. (An unlisted address holds no value, so no entry equals it.) -/
def Memory.wf (m : Memory) : Bool := Memory.sortedFrom 0 m

/-! ## One FIFO: occupancy, index arithmetic, windows -/

/-- R17: DP's `occupied`. -/
def Fifo.occTrue (x : Fifo) : Index := (x.putIndex - x.getIndex) &&& x.mask
/-- R17: the producer's view. -/
def Fifo.occP (x : Fifo) : Index := (x.putIndex - x.getSeen) &&& x.mask
/-- R17: the consumer's view. -/
def Fifo.occC (x : Fifo) : Index := (x.putSeen - x.getIndex) &&& x.mask
/-- R17: true free space. -/
def Fifo.freeTrue (x : Fifo) : Nat := x.capacity.toNat - 1 - x.occTrue.toNat
/-- R17: free space in the producer's view. -/
def Fifo.freeP (x : Fifo) : Nat := x.capacity.toNat - 1 - x.occP.toNat
/-- R17: free space in the consumer's view. -/
def Fifo.freeC (x : Fifo) : Nat := x.capacity.toNat - 1 - x.occC.toNat

/-- R71 (a): an index advanced by `n` and masked. -/
def Fifo.advance (x : Fifo) (i n : Index) : Index := (i + n) &&& x.mask

/-- R41: the storage address of index `i`, masked. -/
def Fifo.addr (x : Fifo) (i : Index) : Nat := (i &&& x.mask).toNat

/-- R110: the longest contiguous readable run, `min(occ_c, capacity - get_index)`. -/
def Fifo.readRun (x : Fifo) : Nat := min x.occC.toNat (x.capacity.toNat - x.getIndex.toNat)

/-- R112: the longest contiguous writable run, `min(free_p, capacity - put_index)`. -/
def Fifo.writeRun (x : Fifo) : Nat := min x.freeP (x.capacity.toNat - x.putIndex.toNat)

/-- R110, R112: a window of `run` bytes at `ptr`, or no window when `run` = 0. -/
def windowOf (ptr : Index) (run : Nat) : Option Lease :=
  if run = 0 then none else some { ptr := ptr, run := BitVec.ofNat 16 run }

/-- R114, R115: `addr` lies in the window; the comparison with `ptr + run` does not wrap. -/
def Lease.covers (l : Lease) (addr : Index) : Bool :=
  decide (l.ptr.toNat ≤ addr.toNat) && decide (addr.toNat < l.ptr.toNat + l.run.toNat)

/-- R81: the RESET micro-op on one instance; it does nothing to an instance that is not constructed. -/
def Fifo.clear (x : Fifo) : Fifo :=
  if x.valid then
    { x with
      putIndex := 0#16, getIndex := 0#16, putSeen := 0#16, getSeen := 0#16
      putMail := none, getMail := none, rdLease := none, wrLease := none }
  else x

/-- R72: the power-of-two test of INIT. -/
def isPowerOfTwo (c : BitVec 24) : Bool := decide (c ≠ 0#24) && decide (c &&& (c - 1#24) = 0#24)

/-- R80: an instance constructed with capacity `c`. `storage` and `fault` are not touched. -/
def Fifo.construct (x : Fifo) (c : BitVec 24) : Fifo :=
  { x with
    valid := true, capacity := c.setWidth 17, mask := (c - 1#24).setWidth 16
    putIndex := 0#16, getIndex := 0#16, putSeen := 0#16, getSeen := 0#16
    putMail := none, getMail := none, rdLease := none, wrLease := none }

/-! ## Access to the parts of the state -/

/-- The FIFO `f`. -/
def State.fifo (s : State) : FifoId → Fifo
  | .h2d => s.fifo0
  | .d2h => s.fifo1

/-- The state with FIFO `f` replaced. -/
def State.setFifo (s : State) (f : FifoId) (x : Fifo) : State :=
  match f with
  | .h2d => { s with fifo0 := x }
  | .d2h => { s with fifo1 := x }

/-- Port `p`. -/
def State.port (s : State) : PortId → PortIO
  | .p0 => s.portP0
  | .c0 => s.portC0
  | .p1 => s.portP1
  | .c1 => s.portC1
  | .k => s.portK

/-- The state with port `p` replaced. -/
def State.setPort (s : State) (p : PortId) (x : PortIO) : State :=
  match p with
  | .p0 => { s with portP0 := x }
  | .c0 => { s with portC0 := x }
  | .p1 => { s with portP1 := x }
  | .c1 => { s with portC1 := x }
  | .k => { s with portK := x }

/-- R5 `DEPTH[f]`: the physical bytes of `storage[f]`. -/
def State.depth (s : State) : FifoId → Nat
  | .h2d => 2 ^ s.params.depthLog0.val
  | .d2h => 2 ^ s.params.depthLog1.val

/-! ## Storage accesses -/

/-- Read one byte of `storage[f]` (R7, R40). An address the array does not have, and a byte nothing has written
(R228), is a fault. -/
def State.load (s : State) (f : FifoId) (a : Nat) : Except Fault Byte :=
  if s.depth f ≤ a then .error .noSuchAddress
  else
    match Memory.read (s.fifo f).storage a with
    | some b => .ok b
    | none => .error .unwrittenByte

/-- Write one byte of `storage[f]` (R7, R40). An address the array does not have is a fault. -/
def State.store (s : State) (f : FifoId) (a : Nat) (b : Byte) : Except Fault State :=
  if s.depth f ≤ a then .error .noSuchAddress
  else .ok (s.setFifo f { s.fifo f with storage := Memory.write (s.fifo f).storage a b })

/-- R7 `MemRead(f, i, n)`: `n` bytes from index `i` on, wrapping at the mask. -/
def State.memRead (s : State) (f : FifoId) : Index → Nat → Except Fault (List Byte)
  | _, 0 => .ok []
  | i, n + 1 =>
    match s.load f ((s.fifo f).addr i) with
    | .error e => .error e
    | .ok b =>
      match s.memRead f (i + 1#16) n with
      | .error e => .error e
      | .ok rest => .ok (b :: rest)

/-- R7 `MemWrite(f, i, n, v)`: the bytes of `v` from index `i` on, wrapping at the mask; a run that passes the physical
end goes on at address 0 (R41, R100). -/
def State.memWrite (s : State) (f : FifoId) : Index → List Byte → Except Fault State
  | _, [] => .ok s
  | i, b :: rest =>
    match s.store f ((s.fifo f).addr i) b with
    | .error e => .error e
    | .ok t => t.memWrite f (i + 1#16) rest

/-- R130: do the bytes from index `i` on equal the pattern? Compared in rising order; a byte after the first difference
is not read (log entry 6). -/
def State.matchAt (s : State) (f : FifoId) : Index → List Byte → Except Fault Bool
  | _, [] => .ok true
  | i, b :: rest =>
    match s.load f ((s.fifo f).addr i) with
    | .error e => .error e
    | .ok v => if v = b then s.matchAt f (i + 1#16) rest else .ok false

/-- R130: the first of `tries` candidate offsets, the first being `k`, at which the pattern stands. -/
def State.findFrom (s : State) (f : FifoId) (pattern : List Byte) : Nat → Nat → Except Fault (Option Nat)
  | _, 0 => .ok none
  | k, tries + 1 =>
    match s.matchAt f ((s.fifo f).getIndex + BitVec.ofNat 16 k) pattern with
    | .error e => .error e
    | .ok true => .ok (some k)
    | .ok false => s.findFrom f pattern (k + 1) tries

/-- A command that reads or writes storage goes on with what it got, or stops with the fault. -/
def orFault {α : Type} (r : Except Fault α) (k : α → Result) : Result :=
  match r with
  | .error e => .fault e
  | .ok a => k a

/-! ## Index moves -/

/-- Advance `put_index[f]` by `n` (R71), and with `SYNC_EAGER` the consumer's copy in the same step (R144). -/
def State.movePut (s : State) (f : FifoId) (n : Index) : State :=
  let x := s.fifo f
  let i := x.advance x.putIndex n
  s.setFifo f { x with putIndex := i, putSeen := if s.params.syncEager then i else x.putSeen }

/-- Advance `get_index[f]` by `n` (R71), and with `SYNC_EAGER` the producer's copy in the same step (R144). -/
def State.moveGet (s : State) (f : FifoId) (n : Index) : State :=
  let x := s.fifo f
  let i := x.advance x.getIndex n
  s.setFifo f { x with getIndex := i, getSeen := if s.params.syncEager then i else x.getSeen }

/-- Set `wr_lease[f]` (R20). -/
def State.setWrLease (s : State) (f : FifoId) (l : Option Lease) : State := s.setFifo f { s.fifo f with wrLease := l }

/-- Set `rd_lease[f]` (R20). -/
def State.setRdLease (s : State) (f : FifoId) (l : Option Lease) : State := s.setFifo f { s.fifo f with rdLease := l }

/-! ## Responses -/

/-- R60: the port of the command in execution gives its response. -/
def State.respond (s : State) (r : Response) : State :=
  s.setPort s.active { s.port s.active with response := some r }

/-- R7 `respond`: the command ends `OK` with a value and, for the commands that have one, a second response word. -/
def State.done (s : State) (val : BitVec 24) (rsp1 : Option Word := none) (payload : List Byte := []) : Result :=
  .next (s.respond { status := .ok, val := val, rsp1 := rsp1, payload := payload })

/-- R7 `raise`: the command ends with a status that is not `OK`; `val` = 0, no payload, and `rsp1` = 0 where the command
has a second response word (R62). -/
def State.raise (s : State) (status : Status) (second : Bool := false) : Result :=
  .next (s.respond { status := status, val := 0#24, rsp1 := if second then some 0#32 else none, payload := [] })

/-- R30 `emit`. -/
def State.emit (s : State) (e : Event) : State := { s with events := s.events ++ [e] }

/-! ## The reconfiguration as a trap, and the resets -/

/-- R208: entry, the one trap-like mechanism: the request is latched, the polling actor paused, and control goes to the
first step of the fixed sequence. Nothing is saved. -/
def State.enterReconfiguration (s : State) (req : ReqCfg) : State :=
  { s with reqCfg := req, reqWritten := true, paused := true, fsm := .teardown }

/-- R209, R161: return: `paused` is set by rule and the sequencer rests. Nothing is restored. -/
def State.returnFromReconfiguration (s : State) : State :=
  { s with paused := s.params.resumeRespectsLink && decide (s.link = .inactive), fsm := .rest }

/-- R220: hardware reset of all domains. The parameters are configuration (R37); what waits at the ports, the turns and
the counters of free values are the environment's and stay; the latest responses are gone (log entry 9). -/
def State.hardReset (s : State) : State :=
  { State.reset with
    params := s.params
    portP0 := { s.portP0 with response := none }
    portC0 := { s.portC0 with response := none }
    portP1 := { s.portP1 with response := none }
    portC1 := { s.portC1 with response := none }
    portK := { s.portK with response := none }
    active := s.active
    turns := s.turns
    freeTurns := s.freeTurns
    draws := s.draws }

end Sys2Proof.Machine
end

