-- ==== Sys2Proof/Machine/Operands.lean ====
section
/-! DEFINITION. Who a command comes from and what its operand fields stand for: ports and roles (spec/30_encoding.md
R60, spec/60_exceptions.md R211), the gating function and the common checks in their order (R194, R212), status codes
and response words (R62, R66), register numbers (spec/10_state.md R31), raw line settings and their coercion
(spec/46_control.md R158), the link assertion and the poll function (R5, R196, R197). -/

namespace Sys2Proof.Machine

open Sys2Proof

/-! ## Ports, roles and gating -/

/-- R60: the FIFO and side a data port is bound to; the control port has none. -/
def portRole : PortId → Option (FifoId × Side)
  | .p0 => some (.h2d, .producer)
  | .c0 => some (.h2d, .consumer)
  | .p1 => some (.d2h, .producer)
  | .c1 => some (.d2h, .consumer)
  | .k => none

/-- R5 `TASK_SIDE[f]`. -/
def taskSide : FifoId → Side
  | .h2d => .producer
  | .d2h => .consumer

/-- R212: the three classes of data-port commands. -/
inductive CommandClass where
  | query
  | move
  | complete
  deriving DecidableEq, Repr

/-- R212: the gating function. -/
def State.gate (s : State) (f : FifoId) (side : Side) : CommandClass → Bool
  | .query => (s.fifo f).valid
  | .move => (s.fifo f).valid && !s.paused && (decide (side = taskSide f) || s.uartUp)
  | .complete => (s.fifo f).valid && (!decide (side = taskSide f) || !s.paused)

/-- R67, R194: the common checks of a command that both sides of a FIFO may issue: the wrong-port test, then the
gate. -/
def State.atEitherSide (s : State) (cls : CommandClass) (k : FifoId → Side → Result) : Result :=
  match portRole s.active with
  | none => s.raise .illegal
  | some (f, side) => if s.gate f side cls then k f side else s.raise .notReady

/-- R67, R194: the common checks of a command of one side: the wrong-port test, then the gate. `second` says whether
the command has a second response word (R62). -/
def State.atSide (s : State) (want : Side) (cls : CommandClass) (second : Bool) (k : FifoId → Result) : Result :=
  match portRole s.active with
  | none => s.raise .illegal second
  | some (f, side) =>
    if side = want then (if s.gate f side cls then k f else s.raise .notReady second) else s.raise .illegal second

/-- R67: a command of the control port. -/
def State.atControl (s : State) (second : Bool) (k : Result) : Result :=
  if s.active = .k then k else s.raise .illegal second

/-- R162, R194: a control command that is accepted only in REST. -/
def State.atControlInRest (s : State) (k : Result) : Result :=
  s.atControl false (if s.fsm = .rest then k else s.raise .busy)

/-! ## Response words -/

/-- R66: the status codes. -/
def Status.code : Status → BitVec 4
  | .ok => 0#4
  | .invalidSize => 1#4
  | .full => 2#4
  | .empty => 3#4
  | .underflow => 4#4
  | .notFound => 5#4
  | .outOfRange => 6#4
  | .unsupportedLineSetting => 7#4
  | .notReady => 8#4
  | .busy => 9#4
  | .contract => 10#4
  | .illegal => 11#4
  | .alreadyInit => 12#4

/-- R62: the first response word. -/
def Response.rsp0 (r : Response) : Word := r.status.code ++ 0#4 ++ r.val

/-- A byte as a response value: `val[7:0]` (R62). -/
def byteVal (b : Byte) : BitVec 24 := b.setWidth 24

/-- A count, length or offset as a response value: `val[15:0]` (R62). -/
def countVal (n : Nat) : BitVec 24 := (BitVec.ofNat 16 n).setWidth 24

/-! ## Register numbers -/

/-- R31: the registers RDREG can name. -/
inductive Reg where
  | capacity
  | mask
  | putIndex
  | getIndex
  | putSeen
  | getSeen
  | fstatus
  | rdLease
  | wrLease
  | fsmState
  | cstatus
  | baud
  | frame
  | pollInterval
  | reqBaud
  | reqFrame
  deriving DecidableEq, Repr

/-- R31: the register of a number; the other numbers are reserved. -/
def Reg.ofNumber (n : BitVec 8) : Option Reg :=
  match n.toNat with
  | 0x00 => some .capacity
  | 0x01 => some .mask
  | 0x02 => some .putIndex
  | 0x03 => some .getIndex
  | 0x04 => some .putSeen
  | 0x05 => some .getSeen
  | 0x06 => some .fstatus
  | 0x07 => some .rdLease
  | 0x08 => some .wrLease
  | 0x10 => some .fsmState
  | 0x11 => some .cstatus
  | 0x12 => some .baud
  | 0x13 => some .frame
  | 0x14 => some .pollInterval
  | 0x15 => some .reqBaud
  | 0x16 => some .reqFrame
  | _ => none

/-- R31, R152: RDREG of register number `n` with FIFO bit `f` names a register: the number is in the map, and a global
register (0x10 and above) is named with `f` = 0. -/
def Reg.select (f : FifoId) (n : BitVec 8) : Option Reg :=
  if 0x10 ≤ n.toNat ∧ f = .d2h then none else Reg.ofNumber n

/-! ## Line settings -/

/-- R158: `data_bits` of a supported raw value. -/
def dataBitsOf (raw : Byte) : Option DataBits :=
  match raw.toNat with
  | 5 => some .five
  | 6 => some .six
  | 7 => some .seven
  | 8 => some .eight
  | _ => none

/-- R158: `stop_bits` of a supported raw value. -/
def stopBitsOf (raw : Byte) : Option StopBits :=
  match raw.toNat with
  | 0 => some .one
  | 2 => some .two
  | _ => none

/-- R158: `parity` of a supported raw value. -/
def parityOf (raw : Byte) : Option Parity :=
  match raw.toNat with
  | 0 => some .none
  | 1 => some .odd
  | 2 => some .even
  | _ => none

/-- R157, R158: the resolved settings of a request: each unsupported field becomes its default; the baud rate is
copied. -/
def coerce (req : ReqCfg) : LineConfig where
  baudRate := req.baud
  dataBits := (dataBitsOf req.dataRaw).getD .eight
  stopBits := (stopBitsOf req.stopRaw).getD .one
  parity := (parityOf req.parityRaw).getD .none

/-- R158 `changed`: some field of the request was unsupported. -/
def coercionNeeded (req : ReqCfg) : Bool :=
  (dataBitsOf req.dataRaw).isNone || (stopBitsOf req.stopRaw).isNone || (parityOf req.parityRaw).isNone

/-! ## Link assertion and poll function -/

/-- R5 `link_assert_fn(dtr, rts)`. -/
def linkAsserted (t : LinkAssert) (dtr rts : Bool) : Bool :=
  match dtr, rts with
  | false, false => t.neither
  | true, false => t.dtrOnly
  | false, true => t.rtsOnly
  | true, true => t.both

/-- R197: the reference instance of `poll_fn`: `MIN_TICK` = 1000, `K_POLL` = 160000000. -/
def referencePollFn (b : Word) : Word :=
  if b = 0#32 then 0xFFFFFFFF#32 else BitVec.ofNat 32 (max 1000 (160000000 / b.toNat))

/-- R5, R196, R197: the machine's `poll_fn`. -/
def pollFn : PollChoice → Word → Word
  | .reference, b => referencePollFn b
  | .unknown, b => Config.unknownPoll.fn b

/-- R5, R196, R197: the machine's `MIN_TICK`. -/
def minTick : PollChoice → Word
  | .reference => 1000#32
  | .unknown => Config.unknownPoll.minTick

end Sys2Proof.Machine
end

