-- ==== Sys2Proof/Machine/Flags.lean ====
section
/-! DEFINITION. The status registers and what sets their bits: FSTATUS, CSTATUS and FRAME (spec/10_state.md R32 to R34),
the other registers of the RDREG map (R31), which of them hold a specified value (R38, R221), and the sticky contract
fault (R21, spec/60_exceptions.md R190). -/

namespace Sys2Proof.Machine

open Sys2Proof

/-- R21, R190: the command breaks the lease contract: the sticky fault bit of f is set and the status is `Contract`. -/
def State.raiseContract (s : State) (f : FifoId) : Result :=
  (s.setFifo f { s.fifo f with fault := true }).raise .contract

/-- R32: FSTATUS of one FIFO. -/
def fstatusWord (x : Fifo) : Word :=
  0#25 ++ BitVec.ofBool x.fault ++ BitVec.ofBool x.getMail.isSome ++ BitVec.ofBool x.putMail.isSome ++
    BitVec.ofBool x.wrLease.isSome ++ BitVec.ofBool x.rdLease.isSome ++ BitVec.ofBool x.failed ++
    BitVec.ofBool x.valid

/-- R33: CSTATUS. -/
def cstatusWord (s : State) : Word :=
  0#27 ++ BitVec.ofBool s.cfgValid ++ BitVec.ofBool s.coerced ++ BitVec.ofBool (decide (s.link = .active)) ++
    BitVec.ofBool s.uartUp ++ BitVec.ofBool s.paused

/-- R34: `data_bits` as a number. -/
def dataBitsCode : DataBits → BitVec 4
  | .five => 5#4
  | .six => 6#4
  | .seven => 7#4
  | .eight => 8#4

/-- R34: `stop_bits` as a number. -/
def stopBitsCode : StopBits → BitVec 2
  | .one => 1#2
  | .two => 2#2

/-- R34: `parity`. -/
def parityCode : Parity → BitVec 2
  | .none => 0#2
  | .odd => 1#2
  | .even => 2#2

/-- R34: FRAME. -/
def frameWord (c : LineConfig) : Word :=
  0#22 ++ parityCode c.parity ++ 0#2 ++ stopBitsCode c.stopBits ++ dataBitsCode c.dataBits

/-- R31: REQ_FRAME. -/
def reqFrameWord (r : ReqCfg) : Word := 0#8 ++ r.stopRaw ++ r.parityRaw ++ r.dataRaw

/-- R31: RD_LEASE or WR_LEASE. -/
def leaseWord : Option Lease → Word
  | none => 0#32
  | some l => l.run ++ l.ptr

/-- R23: the code of a sequencer state. -/
def fsmCode : FsmState → BitVec 3
  | .rest => 0#3
  | .teardown => 1#3
  | .drain => 2#3
  | .clear => 3#3
  | .validate => 4#3
  | .retime => 5#3
  | .reinit => 6#3
  | .resume => 7#3

/-- R31: what a register holds. -/
def State.regWord (s : State) (f : FifoId) : Reg → Word
  | .capacity => if (s.fifo f).valid then (s.fifo f).capacity.setWidth 32 else 0#32
  | .mask => if (s.fifo f).valid then (s.fifo f).mask.setWidth 32 else 0#32
  | .putIndex => (s.fifo f).putIndex.setWidth 32
  | .getIndex => (s.fifo f).getIndex.setWidth 32
  | .putSeen => (s.fifo f).putSeen.setWidth 32
  | .getSeen => (s.fifo f).getSeen.setWidth 32
  | .fstatus => fstatusWord (s.fifo f)
  | .rdLease => leaseWord (s.fifo f).rdLease
  | .wrLease => leaseWord (s.fifo f).wrLease
  | .fsmState => (fsmCode s.fsm).setWidth 32
  | .cstatus => cstatusWord s
  | .baud => s.lineConfig.baudRate
  | .frame => frameWord s.lineConfig
  | .pollInterval => s.pollInterval
  | .reqBaud => s.reqCfg.baud
  | .reqFrame => reqFrameWord s.reqCfg

/-- R34, R38, R221: has the register a specified value? BAUD, FRAME and POLL_INTERVAL have none while `cfg_valid` = 0,
POLL_INTERVAL has none before the first RETIME, REQ_BAUD and REQ_FRAME have none before the first accepted
LINE_CODING. -/
def State.specified (s : State) : Reg → Bool
  | .baud => s.cfgValid
  | .frame => s.cfgValid
  | .pollInterval => s.cfgValid && s.pollWritten
  | .reqBaud => s.reqWritten
  | .reqFrame => s.reqWritten
  | .capacity => true
  | .mask => true
  | .putIndex => true
  | .getIndex => true
  | .putSeen => true
  | .getSeen => true
  | .fstatus => true
  | .rdLease => true
  | .wrLease => true
  | .fsmState => true
  | .cstatus => true

/-- The bits of a register that a field occupies; the others read as zero also while the field's value is unspecified
(R31 zero extension, R34, U10); log entry 5. -/
def Reg.fieldBits : Reg → Word
  | .frame => 0x0000033F#32
  | .reqFrame => 0x00FFFFFF#32
  | .capacity => 0x0001FFFF#32
  | .mask => 0x0000FFFF#32
  | .putIndex => 0x0000FFFF#32
  | .getIndex => 0x0000FFFF#32
  | .putSeen => 0x0000FFFF#32
  | .getSeen => 0x0000FFFF#32
  | .fstatus => 0x0000007F#32
  | .rdLease => 0xFFFFFFFF#32
  | .wrLease => 0xFFFFFFFF#32
  | .fsmState => 0x00000007#32
  | .cstatus => 0x0000001F#32
  | .baud => 0xFFFFFFFF#32
  | .pollInterval => 0xFFFFFFFF#32
  | .reqBaud => 0xFFFFFFFF#32

end Sys2Proof.Machine
end

