-- ==== Sys2Proof/Machine/Bulk.lean ====
section
/-! DEFINITION. BULK_WRITE, BULK_READ (spec/42_bulk.md R100, R101). Each is one atomic step
(spec/20_memory.md R47): all the bytes and the index, or nothing. -/

namespace Sys2Proof.Machine

open Sys2Proof

/-- R100 BULK_WRITE; `len` is the payload's length. With `len` = 0 an open write window stays open. -/
def execBulkWrite (payload : List Byte) (s : State) : Result :=
  s.atSide .producer .move false fun f =>
    if (s.fifo f).freeP < payload.length then s.raise .full
    else
      orFault (s.memWrite f (s.fifo f).putIndex payload) fun t =>
        let u := t.movePut f (BitVec.ofNat 16 payload.length)
        (if payload.isEmpty then u else u.setWrLease f none).done 0#24

/-- R101 BULK_READ. With `len` = 0 an open read window stays open. -/
def execBulkRead (len : Index) (s : State) : Result :=
  s.atSide .consumer .move false fun f =>
    if (s.fifo f).occC.toNat < len.toNat then s.raise .underflow
    else
      orFault (s.memRead f (s.fifo f).getIndex len.toNat) fun bytes =>
        let u := s.moveGet f len
        (if len = 0#16 then u else u.setRdLease f none).done (countVal len.toNat) none bytes

end Sys2Proof.Machine
end

