-- ==== Sys2Proof/Machine/ByteOps.lean ====
section
/-! DEFINITION. PUT, GET, ELEMS, FREE (spec/41_byte_and_query.md R90 to R93). -/

namespace Sys2Proof.Machine

open Sys2Proof

/-- R90 PUT. -/
def execPut (b : Byte) (s : State) : Result :=
  s.atSide .producer .move false fun f =>
    if (s.fifo f).occP.toNat = (s.fifo f).capacity.toNat - 1 then s.raise .full
    else orFault (s.memWrite f (s.fifo f).putIndex [b]) fun t => ((t.movePut f 1#16).setWrLease f none).done 0#24

/-- R91 GET. -/
def execGet (s : State) : Result :=
  s.atSide .consumer .move false fun f =>
    if (s.fifo f).occC = 0#16 then s.raise .empty
    else
      orFault (s.load f ((s.fifo f).addr (s.fifo f).getIndex)) fun b =>
        ((s.moveGet f 1#16).setRdLease f none).done (byteVal b)

/-- R92 ELEMS. -/
def execElems (s : State) : Result :=
  s.atEitherSide .query fun f side =>
    s.done <| match side with
      | .producer => countVal (s.fifo f).occP.toNat
      | .consumer => countVal (s.fifo f).occC.toNat

/-- R93 FREE. -/
def execFree (s : State) : Result :=
  s.atEitherSide .query fun f side =>
    s.done <| match side with
      | .producer => countVal (s.fifo f).freeP
      | .consumer => countVal (s.fifo f).freeC

end Sys2Proof.Machine
end

