-- ==== Sys2Proof/Machine/Control.lean ====
section
/-! DEFINITION. The control commands LINE_STATE, LINE_CODING, RDREG (spec/46_control.md R150 to R152, R162, R163). -/

namespace Sys2Proof.Machine

open Sys2Proof

/-- R150 LINE_STATE: the actions are applied on every accepted event. -/
def execLineState (dtr rts : Bool) (s : State) : Result :=
  s.atControlInRest <|
    if linkAsserted s.params.linkAssert dtr rts then
      State.done { s with link := .active, paused := false } 0#24
    else (State.emit { s with link := .inactive, paused := true } .activityClear).done 0#24

/-- R151 LINE_CODING: the entry into the reconfiguration; no value of any operand is refused. -/
def execLineCoding (stopRaw parityRaw dataRaw : Byte) (baud : Word) (s : State) : Result :=
  s.atControlInRest <|
    (s.enterReconfiguration
      { baud := baud, dataRaw := dataRaw, parityRaw := parityRaw, stopRaw := stopRaw }).done 0#24

/-- R152 RDREG: served in every sequencer state. A register without a specified value returns a free value, fresh each
time (R38, U4). -/
def execRdreg (f : FifoId) (n : BitVec 8) (s : State) : Result :=
  s.atControl true <|
    match Reg.select f n with
    | none => s.raise .illegal true
    | some r =>
      if s.specified r then s.done 0#24 (some (s.regWord f r))
      else State.done { s with draws := s.draws + 1 } 0#24 (some (Config.freeWord s.draws &&& r.fieldBits))

end Sys2Proof.Machine
end

