-- ==== Sys2Proof/Machine/Lifecycle.lean ====
section
/-! DEFINITION. INIT (spec/40_lifecycle.md R80). -/

namespace Sys2Proof.Machine

open Sys2Proof

/-- R80 INIT. A capacity of zero, one that is no power of two, and one above `DEPTH[f]` is `InvalidSize` and marks the
instance failed for good. -/
def execInit (f : FifoId) (capacity : BitVec 24) (s : State) : Result :=
  s.atControlInRest <|
    if (s.fifo f).valid || (s.fifo f).failed then s.raise .alreadyInit
    else if !isPowerOfTwo capacity || decide (s.depth f < capacity.toNat) then
      (s.setFifo f { s.fifo f with failed := true }).raise .invalidSize
    else (s.setFifo f ((s.fifo f).construct capacity)).done 0#24

end Sys2Proof.Machine
end

