-- ==== Sys2Proof/Machine/Scan.lean ====
section
/-! DEFINITION. FIND, PEEK_AT (spec/44_scan.md R130, R131): reads of the consumer's readable region that change
nothing. -/

namespace Sys2Proof.Machine

open Sys2Proof

/-- R130 FIND; `len` is the pattern's length. The first match wins; an empty pattern is `Illegal`, before the gate is
looked at (R194). -/
def execFind (pattern : List Byte) (s : State) : Result :=
  if pattern.isEmpty then s.raise .illegal
  else
    s.atSide .consumer .move false fun f =>
      let n := (s.fifo f).occC.toNat
      if n < pattern.length then s.raise .notFound
      else
        orFault (s.findFrom f pattern 0 (n - pattern.length + 1)) fun found =>
          match found with
          | some k => s.done (countVal k)
          | none => s.raise .notFound

/-- R131 PEEK_AT: `index` counts from 0 at `get_index`. -/
def execPeekAt (index : Index) (s : State) : Result :=
  s.atSide .consumer .move false fun f =>
    if (s.fifo f).occC.toNat ≤ index.toNat then s.raise .outOfRange
    else orFault (s.load f ((s.fifo f).addr ((s.fifo f).getIndex + index))) fun b => s.done (byteVal b)

end Sys2Proof.Machine
end

