-- ==== Sys2Proof/Machine/ZeroCopy.lean ====
section
/-! DEFINITION. The zero-copy windows: PEEK_R, MARK_C, PEEK_W, MARK_P, LDB, STB (spec/43_zero_copy.md R110 to
R116). -/

namespace Sys2Proof.Machine

open Sys2Proof

/-- R110 PEEK_R: a new window replaces any open one; a run of 0 opens none. -/
def execPeekR (s : State) : Result :=
  s.atSide .consumer .move true fun f =>
    let x := s.fifo f
    (s.setRdLease f (windowOf x.getIndex x.readRun)).done (countVal x.readRun) (some (x.getIndex.setWidth 32))

/-- R111 MARK_C: the window closes also when `len` is smaller than its run; a breach leaves it open. -/
def execMarkC (len : Index) (s : State) : Result :=
  s.atSide .consumer .complete false fun f =>
    match (s.fifo f).rdLease with
    | none => s.raiseContract f
    | some l =>
      if l.run.toNat < len.toNat then s.raiseContract f
      else ((s.moveGet f len).setRdLease f none).done 0#24

/-- R112 PEEK_W: a new window replaces any open one; a run of 0 opens none. -/
def execPeekW (s : State) : Result :=
  s.atSide .producer .move true fun f =>
    let x := s.fifo f
    (s.setWrLease f (windowOf x.putIndex x.writeRun)).done (countVal x.writeRun) (some (x.putIndex.setWidth 32))

/-- R113 MARK_P: the slots are published with whatever they hold (R228). -/
def execMarkP (len : Index) (s : State) : Result :=
  s.atSide .producer .complete false fun f =>
    match (s.fifo f).wrLease with
    | none => s.raiseContract f
    | some l =>
      if l.run.toNat < len.toNat then s.raiseContract f
      else ((s.movePut f len).setWrLease f none).done 0#24

/-- R114 LDB: `addr` is a storage address and does not wrap (R41). -/
def execLdb (addr : Index) (s : State) : Result :=
  s.atSide .consumer .complete false fun f =>
    match (s.fifo f).rdLease with
    | none => s.raiseContract f
    | some l =>
      if l.covers addr then orFault (s.load f addr.toNat) fun b => s.done (byteVal b)
      else s.raiseContract f

/-- R115 STB: `addr` is a storage address and does not wrap (R41). -/
def execStb (addr : Index) (b : Byte) (s : State) : Result :=
  s.atSide .producer .complete false fun f =>
    match (s.fifo f).wrLease with
    | none => s.raiseContract f
    | some l =>
      if l.covers addr then orFault (s.store f addr.toNat b) fun t => t.done 0#24
      else s.raiseContract f

end Sys2Proof.Machine
end

