-- ==== Sys2Proof/Machine/Dispatch.lean ====
section
/-! DEFINITION. exec: what one command does at the active port (spec/30_encoding.md R64), one arm per command. -/

namespace Sys2Proof.Machine

open Sys2Proof

def exec (i : Instr) (s : State) : Host.Outcome State Fault Refusal :=
  match i with
  | .put b => Sys2Proof.Machine.execPut b s
  | .get => Sys2Proof.Machine.execGet s
  | .elems => Sys2Proof.Machine.execElems s
  | .free => Sys2Proof.Machine.execFree s
  | .bulkWrite payload => Sys2Proof.Machine.execBulkWrite payload s
  | .bulkRead len => Sys2Proof.Machine.execBulkRead len s
  | .peekR => Sys2Proof.Machine.execPeekR s
  | .markC len => Sys2Proof.Machine.execMarkC len s
  | .peekW => Sys2Proof.Machine.execPeekW s
  | .markP len => Sys2Proof.Machine.execMarkP len s
  | .find pattern => Sys2Proof.Machine.execFind pattern s
  | .peekAt index => Sys2Proof.Machine.execPeekAt index s
  | .ldb addr => Sys2Proof.Machine.execLdb addr s
  | .stb addr b => Sys2Proof.Machine.execStb addr b s
  | .init f capacity => Sys2Proof.Machine.execInit f capacity s
  | .lineCoding stopRaw parityRaw dataRaw baud => Sys2Proof.Machine.execLineCoding stopRaw parityRaw dataRaw baud s
  | .lineState dtr rts => Sys2Proof.Machine.execLineState dtr rts s
  | .rdreg f n => Sys2Proof.Machine.execRdreg f n s

end Sys2Proof.Machine
end

