-- ==== Sys2Proof/WellFormed.lean ====
section
/-! DEFINITION. Which terms of `Instr` a command can be: a payload's length is the 16-bit operand `len`
(spec/30_encoding.md R63, R65), so at most 65535 bytes follow a BULK_WRITE or FIND word. Every other operand's type
already holds exactly the values its field can take. (FIND with `len` = 0 is a command that answers `Illegal`,
R130; it is well formed here.) -/

namespace Sys2Proof

/-- The length of a payload fits the `len` operand (R65). -/
def payloadFits (payload : List Byte) : Bool := decide (payload.length < 65536)

/-- The terms that are commands. -/
def Instr.wf : Instr → Bool
  | .bulkWrite payload => payloadFits payload
  | .find pattern => payloadFits pattern
  | .put _ => true
  | .get => true
  | .elems => true
  | .free => true
  | .bulkRead _ => true
  | .peekR => true
  | .markC _ => true
  | .peekW => true
  | .markP _ => true
  | .peekAt _ => true
  | .ldb _ => true
  | .stb _ _ => true
  | .init _ _ => true
  | .lineCoding _ _ _ _ => true
  | .lineState _ _ => true
  | .rdreg _ _ => true

end Sys2Proof
end

