-- ==== Sys2Proof/Decode.lean ====
section
/-! DEFINITION. Decoding and encoding of commands (spec/30_encoding.md R61, R63, R64, R65, R67). A port carries two
input streams: 32-bit words (command words and the one payload word of LINE_CODING) and payload bytes. `decode`
reads the next command from their fronts and answers it with what is left of both; it waits (`incomplete`) while
the command's payload has not arrived (R63), and it rejects an undecodable word by name, its payload consumed
(R67). `encode` is written from the same tables. -/

namespace Sys2Proof

/-- Field `op`, bits 31:27 (R61). -/
def opField (w : Word) : BitVec 5 := w.extractLsb' 27 5
/-- Field `f`, bit 26 (R61). -/
def fField (w : Word) : BitVec 1 := w.extractLsb' 26 1
/-- Field `z`, bits 25:24 (R61). -/
def zField (w : Word) : BitVec 2 := w.extractLsb' 24 2
/-- Field `arg`, bits 23:0 (R61). -/
def argField (w : Word) : BitVec 24 := w.extractLsb' 0 24
/-- `arg[7:0]` (R65). -/
def arg8 (w : Word) : Byte := w.extractLsb' 0 8
/-- `arg[15:0]` (R65). -/
def arg16 (w : Word) : Index := w.extractLsb' 0 16

/-- The FIFO an `f` bit selects (R5, R61). -/
def fifoOfBit (b : BitVec 1) : FifoId := if b = 1#1 then .d2h else .h2d

/-- The `f` bit of a FIFO (R5, R61). -/
def bitOfFifo : FifoId → BitVec 1
  | .h2d => 0#1
  | .d2h => 1#1

/-- How many payload bytes follow a word, whatever the outcome: `arg[15:0]` if `op` is 0x05 or 0x0B, else none
(R63, R67, R68). -/
def payloadByteCount (w : Word) : Nat :=
  if opField w = 0x05#5 ∨ opField w = 0x0B#5 then (arg16 w).toNat else 0

/-- How many payload words follow a word, whatever the outcome: one if `op` is 0x11, else none (R63, R67). -/
def payloadWordCount (w : Word) : Nat := if opField w = 0x11#5 then 1 else 0

/-- Why a command word is no command of R64 (R67). -/
inductive Reject where
  /-- `op` is 0x00, 0x0F or 0x14 to 0x1F. -/
  | reservedOpcode
  /-- `z` is not 00, or `f` is 1 outside INIT and RDREG, or an `arg` bit that must be zero is 1. -/
  | reservedBits
  deriving DecidableEq, Repr

/-- A command without the `f` bit whose operands lie in the low `k` bits of `arg`: `f` and the other bits of `arg`
must be zero (R61, R65). -/
def plain (w : Word) (k : Nat) (i : Instr) : Except Reject Instr :=
  if fField w = 0#1 ∧ argField w >>> k = 0#24 then .ok i else .error .reservedBits

/-- The command a word is, with its payload bytes and payload word already taken (R64, R65, R67). -/
def instrOf (w : Word) (payload : List Byte) (baud : Word) : Except Reject Instr :=
  match (opField w).toNat with
  | 0x01 => if zField w = 0#2 then plain w 8 (.put (arg8 w)) else .error .reservedBits
  | 0x02 => if zField w = 0#2 then plain w 0 .get else .error .reservedBits
  | 0x03 => if zField w = 0#2 then plain w 0 .elems else .error .reservedBits
  | 0x04 => if zField w = 0#2 then plain w 0 .free else .error .reservedBits
  | 0x05 => if zField w = 0#2 then plain w 16 (.bulkWrite payload) else .error .reservedBits
  | 0x06 => if zField w = 0#2 then plain w 16 (.bulkRead (arg16 w)) else .error .reservedBits
  | 0x07 => if zField w = 0#2 then plain w 0 .peekR else .error .reservedBits
  | 0x08 => if zField w = 0#2 then plain w 16 (.markC (arg16 w)) else .error .reservedBits
  | 0x09 => if zField w = 0#2 then plain w 0 .peekW else .error .reservedBits
  | 0x0A => if zField w = 0#2 then plain w 16 (.markP (arg16 w)) else .error .reservedBits
  | 0x0B => if zField w = 0#2 then plain w 16 (.find payload) else .error .reservedBits
  | 0x0C => if zField w = 0#2 then plain w 16 (.peekAt (arg16 w)) else .error .reservedBits
  | 0x0D => if zField w = 0#2 then plain w 16 (.ldb (arg16 w)) else .error .reservedBits
  | 0x0E => if zField w = 0#2 then plain w 24 (.stb (w.extractLsb' 8 16) (arg8 w)) else .error .reservedBits
  | 0x10 => if zField w = 0#2 then .ok (.init (fifoOfBit (fField w)) (argField w)) else .error .reservedBits
  | 0x11 =>
    if zField w = 0#2 then
      plain w 24 (.lineCoding (w.extractLsb' 16 8) (w.extractLsb' 8 8) (arg8 w) baud)
    else .error .reservedBits
  | 0x12 =>
    if zField w = 0#2 then plain w 2 (.lineState (w.getLsbD 0) (w.getLsbD 1)) else .error .reservedBits
  | 0x13 =>
    if zField w = 0#2 ∧ argField w >>> 8 = 0#24 then .ok (.rdreg (fifoOfBit (fField w)) (arg8 w))
    else .error .reservedBits
  | _ => .error .reservedOpcode

/-- What the front of a port's input streams is, with the rest of both streams (words, then bytes). -/
inductive Decoded where
  /-- No command word, or a payload that has not wholly arrived: the port has no step (R63). -/
  | incomplete
  /-- An undecodable word, its payload consumed (R67). -/
  | illegal (why : Reject) (words : List Word) (bytes : List Byte)
  /-- A command with its payload. -/
  | instr (i : Instr) (words : List Word) (bytes : List Byte)
  deriving DecidableEq, Repr

/-- The next command of a port's input streams (R60, R63, R67). Total. -/
def decode (words : List Word) (bytes : List Byte) : Decoded :=
  match words with
  | [] => .incomplete
  | w :: ws =>
    if bytes.length < payloadByteCount w ∨ ws.length < payloadWordCount w then .incomplete
    else
      match instrOf w (bytes.take (payloadByteCount w)) (ws.headD 0#32) with
      | .ok i => .instr i (ws.drop (payloadWordCount w)) (bytes.drop (payloadByteCount w))
      | .error r => .illegal r (ws.drop (payloadWordCount w)) (bytes.drop (payloadByteCount w))

/-- A command word from its fields (R61). -/
def commandWord (op : BitVec 5) (f : BitVec 1) (arg : BitVec 24) : Word := op ++ f ++ 0#2 ++ arg

/-- A `len`, `index` or `addr` operand in `arg[15:0]` (R65). -/
def lenArg (n : Index) : BitVec 24 := 0#8 ++ n

/-- The command word of an instruction (R64, R65). -/
def encodeWord : Instr → Word
  | .put b => commandWord 0x01#5 0#1 (0#16 ++ b)
  | .get => commandWord 0x02#5 0#1 0#24
  | .elems => commandWord 0x03#5 0#1 0#24
  | .free => commandWord 0x04#5 0#1 0#24
  | .bulkWrite payload => commandWord 0x05#5 0#1 (lenArg (BitVec.ofNat 16 payload.length))
  | .bulkRead len => commandWord 0x06#5 0#1 (lenArg len)
  | .peekR => commandWord 0x07#5 0#1 0#24
  | .markC len => commandWord 0x08#5 0#1 (lenArg len)
  | .peekW => commandWord 0x09#5 0#1 0#24
  | .markP len => commandWord 0x0A#5 0#1 (lenArg len)
  | .find pattern => commandWord 0x0B#5 0#1 (lenArg (BitVec.ofNat 16 pattern.length))
  | .peekAt index => commandWord 0x0C#5 0#1 (lenArg index)
  | .ldb addr => commandWord 0x0D#5 0#1 (lenArg addr)
  | .stb addr b => commandWord 0x0E#5 0#1 (addr ++ b)
  | .init f capacity => commandWord 0x10#5 (bitOfFifo f) capacity
  | .lineCoding stopRaw parityRaw dataRaw _ => commandWord 0x11#5 0#1 (stopRaw ++ parityRaw ++ dataRaw)
  | .lineState dtr rts => commandWord 0x12#5 0#1 (0#22 ++ BitVec.ofBool rts ++ BitVec.ofBool dtr)
  | .rdreg f n => commandWord 0x13#5 (bitOfFifo f) (0#16 ++ n)

/-- The words an instruction puts on its port: its command word, and for LINE_CODING the baud word (R63). -/
def encodeWords (i : Instr) : List Word :=
  match i with
  | .lineCoding _ _ _ baud => [encodeWord i, baud]
  | _ => [encodeWord i]

/-- The payload bytes an instruction puts on its port (R63). -/
def encodeBytes : Instr → List Byte
  | .bulkWrite payload => payload
  | .find pattern => pattern
  | _ => []

/-- The words and the payload bytes of an instruction (R61, R63 to R65). -/
def encode (i : Instr) : List Word × List Byte := (encodeWords i, encodeBytes i)

/-- `n` bytes of a number, the least significant first. -/
def bytesOfNat : Nat → Nat → List Byte
  | 0, _ => []
  | n + 1, x => BitVec.ofNat 8 x :: bytesOfNat n (x / 256)

/-- The words of an instruction whose bits are `x`: the command word, and the payload word where its `op` has one. -/
def tableWords (x : Nat) : List Word :=
  let w := BitVec.ofNat 32 x
  if payloadWordCount w = 0 then [w] else [w, BitVec.ofNat 32 (x / 4294967296)]

/-- The payload bytes of an instruction whose bits are `x`. -/
def tableBytes (x : Nat) : List Byte :=
  bytesOfNat (payloadByteCount (BitVec.ofNat 32 x)) (x / 4294967296)

/-- The instruction the decoder reads from an instruction whose bits are `w`, numbered as spec/opcode_table.json
numbers them; the bits above `nbits` (the payload) are zero. -/
def decodeTableWord (nbits w : Nat) : Option Instr :=
  match decode (tableWords (w % 2 ^ nbits)) (tableBytes (w % 2 ^ nbits)) with
  | .instr i _ _ => some i
  | .illegal _ _ _ => none
  | .incomplete => none

end Sys2Proof
end

