-- ==== Sys2Proof/Machine/Sequencer.lean ====
section
/-! DEFINITION. The reconfiguration sequencer (spec/46_control.md R153 to R161): one internal step for each state but
REST, no commands. -/

namespace Sys2Proof.Machine

open Sys2Proof

/-- R154 TEARDOWN. -/
def teardownStep (s : State) : State := { s.emit .uartDeinit with uartUp := false, fsm := .drain }

/-- R155: no hardware-side window is open (FIFO 0's hardware side is its consumer, FIFO 1's its producer). -/
def State.drained (s : State) : Bool := s.fifo0.rdLease.isNone && s.fifo1.wrLease.isNone

/-- R155 DRAIN; while a hardware-side window is open there is no step. -/
def drainStep (s : State) : Option State := if s.drained then some { s with fsm := .clear } else none

/-- R156 CLEAR: RESET of both instances. -/
def clearStep (s : State) : State := { s with fifo0 := s.fifo0.clear, fifo1 := s.fifo1.clear, fsm := .validate }

/-- R157 VALIDATE. -/
def validateStep (s : State) : State :=
  { s with lineConfig := coerce s.reqCfg, coerced := coercionNeeded s.reqCfg, cfgValid := true, fsm := .retime }

/-- R159 RETIME. -/
def retimeStep (s : State) : State :=
  { s with pollInterval := pollFn s.params.poll s.lineConfig.baudRate, pollWritten := true, fsm := .reinit }

/-- R160 REINIT: the settings emitted are the resolved ones. -/
def reinitStep (s : State) : State := { s.emit (.uartConfigure s.lineConfig) with uartUp := true, fsm := .resume }

/-- R161 RESUME. -/
def resumeStep (s : State) : State := s.returnFromReconfiguration

/-- R153: the step the sequencer's state enables, if any. -/
def fsmStep (s : State) : Option State :=
  match s.fsm with
  | .rest => none
  | .teardown => some (teardownStep s)
  | .drain => drainStep s
  | .clear => some (clearStep s)
  | .validate => some (validateStep s)
  | .retime => some (retimeStep s)
  | .reinit => some (reinitStep s)
  | .resume => some (resumeStep s)

end Sys2Proof.Machine
end

