-- ==== Sys2Proof/Machine/Sync.lean ====
section
/-! DEFINITION. The index synchronisers (spec/45_cdc_sync.md R140 to R144): four named internal steps per FIFO, no
commands. A step that is not enabled is `none`. They are not gated by `paused`, `uart_up` or the sequencer. -/

namespace Sys2Proof.Machine

open Sys2Proof

/-- R140 LAUNCH_PUT. -/
def launchPut (f : FifoId) (s : State) : Option State :=
  let x := s.fifo f
  if x.valid && !s.params.syncEager && x.putMail.isNone && decide (x.putIndex ≠ x.putSeen) then
    some (s.setFifo f { x with putMail := some x.putIndex })
  else none

/-- R141 LAND_PUT. -/
def landPut (f : FifoId) (s : State) : Option State :=
  let x := s.fifo f
  if x.valid then
    match x.putMail with
    | some v => some (s.setFifo f { x with putSeen := v, putMail := none })
    | none => none
  else none

/-- R142 LAUNCH_GET. -/
def launchGet (f : FifoId) (s : State) : Option State :=
  let x := s.fifo f
  if x.valid && !s.params.syncEager && x.getMail.isNone && decide (x.getIndex ≠ x.getSeen) then
    some (s.setFifo f { x with getMail := some x.getIndex })
  else none

/-- R143 LAND_GET. -/
def landGet (f : FifoId) (s : State) : Option State :=
  let x := s.fifo f
  if x.valid then
    match x.getMail with
    | some v => some (s.setFifo f { x with getSeen := v, getMail := none })
    | none => none
  else none

end Sys2Proof.Machine
end

