-- ==== Sys2Proof/Machine/Fetch.lean ====
section
/-! DEFINITION. What surrounds a command: whose turn it is (spec/60_exceptions.md R198), the next command of a port
(spec/30_encoding.md R60, R63), the answer to an undecodable word (R67), the turns that are no command, and placing an
instruction where the next step fetches. -/

namespace Sys2Proof.Machine

open Sys2Proof

/-- R198: whose turn it is, and the state with that turn used up. Where the environment has fixed no turn the order is
open: a free value. -/
def State.takeTurn (s : State) : Move × State :=
  match s.turns with
  | m :: rest => (m, { s with turns := rest })
  | [] => (Config.freeMove s.freeTurns, { s with freeTurns := s.freeTurns + 1 })

/-- The next command of port `p`. -/
def State.fetch (s : State) (p : PortId) : Decoded := decode (s.port p).words (s.port p).bytes

/-- Port `p` becomes the active port, with what its command took gone from its input streams (R63). -/
def State.accept (s : State) (p : PortId) (words : List Word) (bytes : List Byte) : State :=
  { s with active := p }.setPort p { s.port p with words := words, bytes := bytes }

/-- R67: an undecodable word ends `Illegal`; it has no second response word (log entry 8). -/
def State.answerUndecodable (s : State) : State :=
  s.respond { status := .illegal, val := 0#24, rsp1 := none, payload := [] }

/-- The internal step a turn stands for, if it is enabled; a port's turn stands for none. -/
def internalStep (m : Move) (s : State) : Option State :=
  match m with
  | .port _ => none
  | .launchPut f => launchPut f s
  | .landPut f => landPut f s
  | .launchGet f => launchGet f s
  | .landGet f => landGet f s
  | .fsm => fsmStep s
  | .hardReset => some s.hardReset

/-- A turn that is no port's: the enabled step, or nothing happens (log entry 3). -/
def internalTurn (m : Move) (s : State) : State := (internalStep m s).getD s

/-- R60: a port that accepts a command word, for placing it: the first of the table's ports for its `op`. -/
def homePort (w : Word) : PortId :=
  match (opField w).toNat with
  | 0x01 => .p0
  | 0x02 => .c0
  | 0x03 => .p0
  | 0x04 => .p0
  | 0x05 => .p0
  | 0x06 => .c0
  | 0x07 => .c0
  | 0x08 => .c0
  | 0x09 => .p0
  | 0x0A => .p0
  | 0x0B => .c0
  | 0x0C => .c0
  | 0x0D => .c0
  | 0x0E => .p0
  | _ => .k

/-- An instruction whose bits are `x` put at the front of its home port's input, and that port given the next turn. -/
def State.place (s : State) (x : Nat) : State :=
  let p := homePort (BitVec.ofNat 32 x)
  let io := s.port p
  { s with turns := .port p :: s.turns }.setPort p
    { io with words := tableWords x ++ io.words, bytes := tableBytes x ++ io.bytes }

end Sys2Proof.Machine
end

