-- ==== Sys2Proof/Machine/Step.lean ====
section
/-! DEFINITION. One step of the machine: one turn of one agent (spec/00_scope.md R8, spec/60_exceptions.md R198). -/

namespace Sys2Proof.Machine

open Sys2Proof

/-- A port's turn: its next whole command is carried out (R60, R63); with no whole command nothing happens; an
undecodable word is answered `Illegal` (R67). -/
def portTurn (p : PortId) (s : State) : Host.Outcome State Fault Refusal :=
  match s.fetch p with
  | .incomplete => .next s
  | .illegal _ words bytes => .next (s.accept p words bytes).answerUndecodable
  | .instr i words bytes => exec i (s.accept p words bytes)

/-- One step: whose turn it is, then that turn. -/
def step (s : State) : Host.Outcome State Fault Refusal :=
  match s.takeTurn with
  | (.port p, t) => portTurn p t
  | (m, t) => .next (internalTurn m t)

/-- `s` with an instruction placed where the next step fetches: its words and payload (zeros above `nbits`) at the front
of the input of a port that accepts it, and that port given the next turn. -/
def State.withFetchWord (s : State) (nbits w : Nat) : State := s.place (w % 2 ^ nbits)

end Sys2Proof.Machine
end

