-- ==== Sys2Proof/Safety.lean ====
section
/-! DEFINITION. The terms claims are stated in: the opcode table as match and mask (spec/30_encoding.md R64), the logical
content of a FIFO (spec/00_scope.md R9), a run's faults (R21, spec/93_implementation_defined.md U1), what two states share
(frames), and the invariants of spec/10_state.md R10 to R20 and of the reconfiguration sequence. -/

namespace Sys2Proof

/-! ## The opcode table -/

/-- One row of R64. -/
structure OpcodeRow where
  mnemonic : String
  matchWord : Word
  maskWord : Word
  deriving DecidableEq, Repr

/-- R64: a word is this row's command iff `w & mask == match`. -/
abbrev OpcodeRow.covers (r : OpcodeRow) (w : Word) : Prop := w &&& r.maskWord = r.matchWord

/-- R64, the data-port commands. -/
def dataRows : List OpcodeRow :=
  [ ⟨"PUT", 0x08000000#32, 0xFFFFFF00#32⟩, ⟨"GET", 0x10000000#32, 0xFFFFFFFF#32⟩,
    ⟨"ELEMS", 0x18000000#32, 0xFFFFFFFF#32⟩, ⟨"FREE", 0x20000000#32, 0xFFFFFFFF#32⟩,
    ⟨"BULK_WRITE", 0x28000000#32, 0xFFFF0000#32⟩, ⟨"BULK_READ", 0x30000000#32, 0xFFFF0000#32⟩,
    ⟨"PEEK_R", 0x38000000#32, 0xFFFFFFFF#32⟩, ⟨"MARK_C", 0x40000000#32, 0xFFFF0000#32⟩,
    ⟨"PEEK_W", 0x48000000#32, 0xFFFFFFFF#32⟩, ⟨"MARK_P", 0x50000000#32, 0xFFFF0000#32⟩,
    ⟨"FIND", 0x58000000#32, 0xFFFF0000#32⟩, ⟨"PEEK_AT", 0x60000000#32, 0xFFFF0000#32⟩,
    ⟨"LDB", 0x68000000#32, 0xFFFF0000#32⟩, ⟨"STB", 0x70000000#32, 0xFF000000#32⟩ ]

/-- R64, the control-port commands. -/
def controlRows : List OpcodeRow :=
  [ ⟨"INIT", 0x80000000#32, 0xFB000000#32⟩, ⟨"LINE_CODING", 0x88000000#32, 0xFF000000#32⟩,
    ⟨"LINE_STATE", 0x90000000#32, 0xFFFFFFFC#32⟩, ⟨"RDREG", 0x98000000#32, 0xFBFFFF00#32⟩ ]

/-- R64: the whole table. -/
def opcodeTable : List OpcodeRow := dataRows ++ controlRows

/-- R64: the mnemonic of a command. -/
def Instr.mnemonic : Instr → String
  | .put _ => "PUT"
  | .get => "GET"
  | .elems => "ELEMS"
  | .free => "FREE"
  | .bulkWrite _ => "BULK_WRITE"
  | .bulkRead _ => "BULK_READ"
  | .peekR => "PEEK_R"
  | .markC _ => "MARK_C"
  | .peekW => "PEEK_W"
  | .markP _ => "MARK_P"
  | .find _ => "FIND"
  | .peekAt _ => "PEEK_AT"
  | .ldb _ => "LDB"
  | .stb _ _ => "STB"
  | .init _ _ => "INIT"
  | .lineCoding _ _ _ _ => "LINE_CODING"
  | .lineState _ _ => "LINE_STATE"
  | .rdreg _ _ => "RDREG"

/-- R60: the commands a producer port accepts. -/
def Instr.onProducerPort : Instr → Bool
  | .put _ => true
  | .elems => true
  | .free => true
  | .bulkWrite _ => true
  | .peekW => true
  | .markP _ => true
  | .stb _ _ => true
  | .get => false
  | .bulkRead _ => false
  | .peekR => false
  | .markC _ => false
  | .find _ => false
  | .peekAt _ => false
  | .ldb _ => false
  | .init _ _ => false
  | .lineCoding _ _ _ _ => false
  | .lineState _ _ => false
  | .rdreg _ _ => false

/-- R60: the commands a consumer port accepts. -/
def Instr.onConsumerPort : Instr → Bool
  | .get => true
  | .elems => true
  | .free => true
  | .bulkRead _ => true
  | .peekR => true
  | .markC _ => true
  | .find _ => true
  | .peekAt _ => true
  | .ldb _ => true
  | .put _ => false
  | .bulkWrite _ => false
  | .peekW => false
  | .markP _ => false
  | .stb _ _ => false
  | .init _ _ => false
  | .lineCoding _ _ _ _ => false
  | .lineState _ _ => false
  | .rdreg _ _ => false

/-- R60: the commands the control port accepts. -/
def Instr.onControlPort : Instr → Bool
  | .init _ _ => true
  | .lineCoding _ _ _ _ => true
  | .lineState _ _ => true
  | .rdreg _ _ => true
  | .put _ => false
  | .get => false
  | .elems => false
  | .free => false
  | .bulkWrite _ => false
  | .bulkRead _ => false
  | .peekR => false
  | .markC _ => false
  | .peekW => false
  | .markP _ => false
  | .find _ => false
  | .peekAt _ => false
  | .ldb _ => false
  | .stb _ _ => false

/-- R62: the commands with a second response word. -/
def Instr.hasSecondWord : Instr → Bool
  | .peekR => true
  | .peekW => true
  | .rdreg _ _ => true
  | .put _ => false
  | .get => false
  | .elems => false
  | .free => false
  | .bulkWrite _ => false
  | .bulkRead _ => false
  | .markC _ => false
  | .markP _ => false
  | .find _ => false
  | .peekAt _ => false
  | .ldb _ => false
  | .stb _ _ => false
  | .init _ _ => false
  | .lineCoding _ _ _ _ => false
  | .lineState _ _ => false

/-- R212: the class of a data-port command; the control commands have none. -/
def Instr.commandClass : Instr → Option Machine.CommandClass
  | .elems => some .query
  | .free => some .query
  | .put _ => some .move
  | .get => some .move
  | .bulkWrite _ => some .move
  | .bulkRead _ => some .move
  | .peekR => some .move
  | .peekW => some .move
  | .find _ => some .move
  | .peekAt _ => some .move
  | .markC _ => some .complete
  | .markP _ => some .complete
  | .ldb _ => some .complete
  | .stb _ _ => some .complete
  | .init _ _ => none
  | .lineCoding _ _ _ _ => none
  | .lineState _ _ => none
  | .rdreg _ _ => none

namespace Machine

/-- R60: does the port accept the command? -/
def portAccepts (p : PortId) (i : Instr) : Bool :=
  match portRole p with
  | some (_, .producer) => i.onProducerPort
  | some (_, .consumer) => i.onConsumerPort
  | none => i.onControlPort

/-- R60: the producer port of a FIFO. -/
def producerPort : FifoId → PortId
  | .h2d => .p0
  | .d2h => .p1

/-- R60: the consumer port of a FIFO. -/
def consumerPort : FifoId → PortId
  | .h2d => .c0
  | .d2h => .c1

/-- The other FIFO. -/
def otherFifo : FifoId → FifoId
  | .h2d => .d2h
  | .d2h => .h2d

/-! ## Safe runs -/

/-- U1: a state in which a `Contract` fault is recorded is never a final state of a safe run. -/
def State.faultFree (s : State) : Bool := !s.fifo0.fault && !s.fifo1.fault

/-! ## Content -/

/-- R9, R41: the byte at a logical offset from `get_index`, if the slot holds one. -/
def State.content (s : State) (f : FifoId) (k : Nat) : Option Byte :=
  Memory.read (s.fifo f).storage ((s.fifo f).addr ((s.fifo f).getIndex + BitVec.ofNat 16 k))

/-- R41: the storage address of the k-th byte of a producer command. -/
def State.putAddr (s : State) (f : FifoId) (k : Nat) : Nat :=
  (s.fifo f).addr ((s.fifo f).putIndex + BitVec.ofNat 16 k)

/-- R130: the pattern stands at logical offset `k` of the visible content. -/
def State.PatternAt (s : State) (f : FifoId) (pattern : List Byte) (k : Nat) : Prop :=
  k + pattern.length ≤ (s.fifo f).occC.toNat ∧ ∀ j < pattern.length, s.content f (k + j) = pattern[j]?

/-! ## What two states share -/

/-- R62: the response of a command that fails with a status. -/
def errorAnswer (i : Instr) (status : Status) : Response where
  status := status
  val := 0#24
  rsp1 := if i.hasSecondWord then some 0#32 else none
  payload := []

/-- R62: the response `OK` of a command with a value and no second word. -/
def okWith (val : BitVec 24) : Response where
  status := .ok
  val := val
  rsp1 := none
  payload := []

/-- The response of an RDREG that returns `v` (R62). -/
def rdregAnswer (v : Word) : Response where
  status := .ok
  val := 0#24
  rsp1 := some v
  payload := []

/-- The sequencer, bridge and configuration state is the same, and so are the model's own fields but the ports and the
turns. -/
structure State.SameControl (s t : State) : Prop where
  fsm : t.fsm = s.fsm
  paused : t.paused = s.paused
  uartUp : t.uartUp = s.uartUp
  link : t.link = s.link
  reqCfg : t.reqCfg = s.reqCfg
  lineConfig : t.lineConfig = s.lineConfig
  cfgValid : t.cfgValid = s.cfgValid
  coerced : t.coerced = s.coerced
  pollInterval : t.pollInterval = s.pollInterval
  events : t.events = s.events
  reqWritten : t.reqWritten = s.reqWritten
  pollWritten : t.pollWritten = s.pollWritten
  params : t.params = s.params
  draws : t.draws = s.draws

/-- Neither the turns nor the active port change. -/
structure State.SameTurns (s t : State) : Prop where
  active : t.active = s.active
  turns : t.turns = s.turns
  freeTurns : t.freeTurns = s.freeTurns

/-- No port changes but for the response of the active one. -/
structure State.SamePorts (s t : State) : Prop where
  others : ∀ p, p ≠ s.active → t.port p = s.port p
  words : (t.port s.active).words = (s.port s.active).words
  bytes : (t.port s.active).bytes = (s.port s.active).bytes

/-- A FIFO command leaves alone the control state, the turns, the ports' inputs and every FIFO but its own (R40). -/
structure State.FrameOutsideFifo (s t : State) : Prop where
  control : s.SameControl t
  turns : s.SameTurns t
  ports : s.SamePorts t
  otherFifos : ∀ g, (∀ side, portRole s.active ≠ some (g, side)) → t.fifo g = s.fifo g

/-- The construction of an instance (R10, R11) and the mailboxes (R16), which no data-port command writes. -/
structure Fifo.SameConstruction (x y : Fifo) : Prop where
  valid : y.valid = x.valid
  failed : y.failed = x.failed
  capacity : y.capacity = x.capacity
  mask : y.mask = x.mask
  putMail : y.putMail = x.putMail
  getMail : y.getMail = x.getMail

/-- The consumer's registers (R14, R20) and the producer's copy of `get_index` (R15). -/
structure Fifo.SameConsumerSide (x y : Fifo) : Prop where
  getIndex : y.getIndex = x.getIndex
  getSeen : y.getSeen = x.getSeen
  rdLease : y.rdLease = x.rdLease

/-- The producer's registers (R14, R20) and the consumer's copy of `put_index` (R15). -/
structure Fifo.SameProducerSide (x y : Fifo) : Prop where
  putIndex : y.putIndex = x.putIndex
  putSeen : y.putSeen = x.putSeen
  wrLease : y.wrLease = x.wrLease

/-- R194: the command arrives at a port of `side` of FIFO `f` and its gate is open (R212). -/
def State.Admitted (s : State) (f : FifoId) (side : Side) (cls : CommandClass) : Prop :=
  portRole s.active = some (f, side) ∧ s.gate f side cls = true

/-- The response the active port holds in `t`. -/
def State.Answered (s t : State) (r : Response) : Prop := (t.port s.active).response = some r

/-- `n` sequencer steps, each enabled. -/
def fsmSteps : Nat → State → Option State
  | 0, s => some s
  | n + 1, s =>
    match fsmStep s with
    | some t => fsmSteps n t
    | none => none

/-! ## Invariants -/

/-- R19: `d(a, b)`. -/
def Fifo.span (x : Fifo) (a b : Index) : Nat := ((a - b) &&& x.mask).toNat

/-- R10 to R13, R16, R83: the shape of one instance over a physical array of `depth` bytes. -/
structure Fifo.Shape (depth : Nat) (x : Fifo) : Prop where
  /-- R10: never both. -/
  flags : ¬ (x.valid = true ∧ x.failed = true)
  /-- R12: one canonical list of cells, inside the physical array. -/
  storageSorted : Memory.wf x.storage = true
  /-- R40: every written cell is below the capacity. -/
  storageInside : ∀ c ∈ x.storage, c.1 < x.capacity.toNat
  /-- R11, R38: nothing is set while the instance is not constructed. -/
  unconstructed : x.valid = false →
    x.capacity = 0#17 ∧ x.mask = 0#16 ∧ x.putIndex = 0#16 ∧ x.getIndex = 0#16 ∧ x.putSeen = 0#16 ∧ x.getSeen = 0#16 ∧
      x.putMail = none ∧ x.getMail = none ∧ x.rdLease = none ∧ x.wrLease = none
  /-- R11: a power of two from 1 to 2^16. -/
  powerOfTwo : x.valid = true → ∃ k, k ≤ 16 ∧ x.capacity.toNat = 2 ^ k
  /-- R11, R12: within the physical array. -/
  capacityFits : x.capacity.toNat ≤ depth
  /-- R11: `mask = capacity - 1`. -/
  maskIs : x.valid = true → x.mask.toNat + 1 = x.capacity.toNat
  /-- R13, R15, R16: every index value is below the capacity. -/
  indices : x.putIndex.toNat ≤ x.mask.toNat ∧ x.getIndex.toNat ≤ x.mask.toNat ∧ x.putSeen.toNat ≤ x.mask.toNat ∧
    x.getSeen.toNat ≤ x.mask.toNat
  mails : (∀ v ∈ x.putMail, v.toNat ≤ x.mask.toNat) ∧ (∀ v ∈ x.getMail, v.toNat ≤ x.mask.toNat)

/-- R19: the ordering invariant of a constructed instance. -/
structure Fifo.Ordered (x : Fifo) : Prop where
  ring : x.span x.getIndex x.getSeen + x.span x.putSeen x.getIndex + x.span x.putIndex x.putSeen + 1 ≤ x.capacity.toNat
  getMail : ∀ v ∈ x.getMail, x.span v x.getSeen ≤ x.span x.getIndex x.getSeen
  putMail : ∀ v ∈ x.putMail, x.span v x.putSeen ≤ x.span x.putIndex x.putSeen

/-- R20: the open windows. -/
structure Fifo.Windows (x : Fifo) : Prop where
  read : ∀ l ∈ x.rdLease, l.ptr = x.getIndex ∧ 1 ≤ l.run.toNat ∧ l.run.toNat ≤ x.occC.toNat ∧
    l.ptr.toNat + l.run.toNat ≤ x.capacity.toNat
  write : ∀ l ∈ x.wrLease, l.ptr = x.putIndex ∧ 1 ≤ l.run.toNat ∧ l.run.toNat ≤ x.freeP ∧
    l.ptr.toNat + l.run.toNat ≤ x.capacity.toNat

/-- R144: with `SYNC_EAGER` nothing is ever under way. -/
def Fifo.Eager (x : Fifo) : Prop :=
  x.putMail = none ∧ x.getMail = none ∧ x.putSeen = x.putIndex ∧ x.getSeen = x.getIndex

/-- One instance, all of R10 to R20. -/
structure State.FifoInv (s : State) (f : FifoId) : Prop where
  shape : (s.fifo f).Shape (s.depth f)
  ordered : (s.fifo f).valid = true → (s.fifo f).Ordered
  windows : (s.fifo f).Windows
  eager : s.params.syncEager = true → (s.fifo f).Eager

/-- The place in the reconfiguration sequence (R23). -/
def State.phase (s : State) : Nat := (fsmCode s.fsm).toNat

/-- The sequencer and the bridge: R23 to R29, R212, R225. -/
structure State.SequenceInv (s : State) : Prop where
  /-- R212: `paused` = 1 through the whole exclusive window. -/
  paused : s.fsm ≠ .rest → s.paused = true
  /-- R27: a request is latched through the whole window. -/
  requested : s.fsm ≠ .rest → s.reqWritten = true
  /-- R154, R160: the UART is down from TEARDOWN to REINIT. -/
  uartDown : 2 ≤ s.phase → s.phase ≤ 6 → s.uartUp = false
  uartUp : s.phase = 7 → s.uartUp = true
  /-- R155, R225: no hardware-side window after DRAIN. -/
  drained : 3 ≤ s.phase → s.drained = true
  /-- R156: both instances empty, nothing under way, after CLEAR. -/
  cleared : 4 ≤ s.phase → s.fifo0.clear = s.fifo0 ∧ s.fifo1.clear = s.fifo1
  /-- R157: the settings are resolved after VALIDATE. -/
  resolved : 5 ≤ s.phase →
    s.cfgValid = true ∧ s.lineConfig = coerce s.reqCfg ∧ s.coerced = coercionNeeded s.reqCfg
  /-- R159: the poll interval is new after RETIME. -/
  retimed : 6 ≤ s.phase → s.pollWritten = true
  /-- R28, R159: what was written is written from the settings in force. -/
  settings : s.pollWritten = true → s.cfgValid = true
  request : s.cfgValid = true → s.reqWritten = true
  /-- R29, R159: the interval belongs to the settings in force, except between VALIDATE and RETIME. -/
  interval : s.pollWritten = true → s.phase ≠ 5 → s.pollInterval = pollFn s.params.poll s.lineConfig.baudRate
  /-- R154, R160: in REST the UART is up exactly when it was ever configured. -/
  atRest : s.fsm = .rest → s.uartUp = s.cfgValid ∧ s.pollWritten = s.cfgValid

/-- The invariant of the machine. -/
structure State.Inv (s : State) : Prop where
  h2d : s.FifoInv .h2d
  d2h : s.FifoInv .d2h
  sequence : s.SequenceInv

end Machine

end Sys2Proof
end

