-- ==== Sys2Proof/Certificates/Slice0/Obligations.lean ====
section
/-! DEFINITION. The statements for the provers, one `def Obligations.<Name> : Prop` each; OBLIGATIONS.json lists them.
They speak of `exec` at the active port, of `step`, and of the internal steps, in the terms of Sys2Proof/Safety.lean. -/

open Sys2Proof Sys2Proof.Machine

/-! ## Encoding, and how a command comes to run -/

/-- R61, R63 to R65: decoding the words and payload of a well-formed command gives it back, whatever follows. -/
def Obligations.DecodeEncodeRoundTrip : Prop :=
  ∀ (i : Instr), i.wf = true → ∀ (words : List Word) (bytes : List Byte),
    decode (encodeWords i ++ words) (encodeBytes i ++ bytes) = .instr i words bytes

/-- R64: a word is a command exactly when a row of the table covers it, and it is that row's command. -/
def Obligations.WordIsCommandIffRowCovers : Prop :=
  ∀ (w : Word) (payload : List Byte) (baud : Word) (row : OpcodeRow), row ∈ opcodeTable →
    (row.covers w ↔ ∃ i, instrOf w payload baud = .ok i ∧ i.mnemonic = row.mnemonic)

/-- Words written out in spec/95_test_vectors.md, with the commands they stand for. -/
def Obligations.SampleWordsDecode : Prop :=
  decodeTableWord 32 0x08000041 = some (.put 0x41#8) ∧
  decodeTableWord 32 0x30000007 = some (.bulkRead 7#16) ∧
  decodeTableWord 32 0x70000558 = some (.stb 5#16 0x58#8) ∧
  decodeTableWord 32 0x8400000C = some (.init .d2h 12#24) ∧
  decode [0x88010409#32, 0x00002580#32] [] = .instr (.lineCoding 1#8 4#8 9#8 9600#32) [] [] ∧
  decode [0x58000002#32] [0x0D#8, 0x0A#8] = .instr (.find [0x0D#8, 0x0A#8]) [] [] ∧
  decodeTableWord 32 0x90000002 = some (.lineState false true) ∧
  decodeTableWord 32 0x9C000006 = some (.rdreg .d2h 6#8) ∧
  decodeTableWord 32 0x08000141 = none ∧
  decodeTableWord 32 0x78000000 = none

/-- R8, R60, R198: a step is one turn: the next of the environment's turns, or a free one where none is fixed (log entry
3). A port's turn with a whole command runs that command at that port, its words and payload taken; every other turn is
the internal step it names, or nothing where that is not enabled. -/
def Obligations.StepRunsDecodedInstruction : Prop :=
  (∀ (s t : State) (p : PortId) (i : Instr) (words : List Word) (bytes : List Byte),
    s.takeTurn = (.port p, t) → decode (t.port p).words (t.port p).bytes = .instr i words bytes → i.wf = true →
      step s = exec i (t.accept p words bytes)) ∧
  (∀ (s t : State) (m : Move), s.takeTurn = (m, t) → (∀ p, m ≠ .port p) →
      step s = .next ((internalStep m t).getD t)) ∧
  (∀ (s : State) (m : Move) (rest : List Move), s.turns = m :: rest → s.takeTurn = (m, { s with turns := rest })) ∧
  (∀ s : State, s.turns = [] →
      s.takeTurn = (Config.freeMove s.freeTurns, { s with freeTurns := s.freeTurns + 1 })) ∧
  ∀ (s : State) (p : PortId) (words : List Word) (bytes : List Byte),
    (s.accept p words bytes).active = p ∧
    ((s.accept p words bytes).port p).words = words ∧ ((s.accept p words bytes).port p).bytes = bytes ∧
    (∀ q, q ≠ p → (s.accept p words bytes).port q = s.port q) ∧
    (∀ f, (s.accept p words bytes).fifo f = s.fifo f) ∧ s.SameControl (s.accept p words bytes) ∧
    (s.accept p words bytes).turns = s.turns ∧ (s.accept p words bytes).freeTurns = s.freeTurns

/-- R63: while a command's payload has not wholly arrived its port has no step: its turn changes nothing. -/
def Obligations.PortWaitsForWholePayload : Prop :=
  ∀ (s : State) (p : PortId),
    ((s.port p).words = [] ∨
      ∃ w ws, (s.port p).words = w :: ws ∧
        ((s.port p).bytes.length < payloadByteCount w ∨ ws.length < payloadWordCount w)) →
    portTurn p s = .next s

/-- R67: a word that no row of the opcode table covers ends `Illegal` at any port, with `rsp0` 0xB0000000; its payload is
consumed and nothing else changes. That the response has no second word (`rsp1` is `none`) is no rule of the spec but the
model's choice: DESIGN CHOICE, log entry 8. -/
def Obligations.UndecodableWordEndsIllegal : Prop :=
  ∀ (s : State) (p : PortId) (w : Word) (ws : List Word),
    (s.port p).words = w :: ws → (∀ row ∈ opcodeTable, ¬ row.covers w) →
    payloadByteCount w ≤ (s.port p).bytes.length → payloadWordCount w ≤ ws.length →
    ∃ t r, portTurn p s = .next t ∧ (t.port p).response = some r ∧
      r.rsp0 = 0xB0000000#32 ∧ r.rsp1 = none ∧ r.payload = [] ∧
      (t.port p).words = ws.drop (payloadWordCount w) ∧ (t.port p).bytes = (s.port p).bytes.drop (payloadByteCount w) ∧
      (∀ q, q ≠ p → t.port q = s.port q) ∧ (∀ f, t.fifo f = s.fifo f) ∧ s.SameControl t ∧
      t.turns = s.turns ∧ t.freeTurns = s.freeTurns ∧ t.active = p

/-- R60, R67: a command at a port that does not accept it ends `Illegal` and changes nothing else. -/
def Obligations.IllegalAtWrongPort : Prop :=
  ∀ (i : Instr) (s : State), portAccepts s.active i = false →
    exec i s = .next (s.respond (errorAnswer i .illegal))

/-! ## The checks common to many commands -/

/-- R188, R194, R212: a data-port command whose gate is closed ends `NotReady` and changes nothing else. The gate is
spelled out: the instance is not constructed; or the command moves bytes while `paused` = 1, or on the hardware side
while `uart_up` = 0; or it completes a window on the task side while `paused` = 1. -/
def Obligations.NotReadyWhenGateClosed : Prop :=
  ∀ (i : Instr) (s : State) (f : FifoId) (side : Side) (cls : CommandClass),
    portRole s.active = some (f, side) → portAccepts s.active i = true → i.commandClass = some cls → i ≠ .find [] →
    ((s.fifo f).valid = false ∨
      (cls = .move ∧ (s.paused = true ∨ (side ≠ taskSide f ∧ s.uartUp = false))) ∨
      (cls = .complete ∧ side = taskSide f ∧ s.paused = true)) →
    exec i s = .next (s.respond (errorAnswer i .notReady))

/-- R162, R189: in every sequencer state but REST, INIT, LINE_STATE and LINE_CODING end `Busy` and change nothing
else. -/
def Obligations.BusyOutsideRest : Prop :=
  Status.busy.code = 9#4 ∧
  ∀ (s : State), s.active = .k → s.fsm ≠ .rest →
    (∀ f c, exec (.init f c) s = .next (s.respond (errorAnswer (.init f c) .busy))) ∧
    (∀ dtr rts, exec (.lineState dtr rts) s = .next (s.respond (errorAnswer (.lineState dtr rts) .busy))) ∧
    (∀ a b c d, exec (.lineCoding a b c d) s = .next (s.respond (errorAnswer (.lineCoding a b c d) .busy)))

/-- R182 to R184, R186: the capacity statuses `Full`, `Empty`, `Underflow` and `OutOfRange`, taken on the issuing side's
view, change nothing else. -/
def Obligations.CapacityStatusesChangeNothing : Prop :=
  (Status.full.code = 2#4 ∧ Status.empty.code = 3#4 ∧ Status.underflow.code = 4#4 ∧ Status.outOfRange.code = 6#4) ∧
  ∀ (s : State) (f : FifoId),
    (s.Admitted f .producer .move →
      (∀ b, (s.fifo f).occP.toNat = (s.fifo f).capacity.toNat - 1 →
        exec (.put b) s = .next (s.respond (errorAnswer (.put b) .full))) ∧
      (∀ bytes, (s.fifo f).freeP < bytes.length →
        exec (.bulkWrite bytes) s = .next (s.respond (errorAnswer (.bulkWrite bytes) .full)))) ∧
    (s.Admitted f .consumer .move →
      ((s.fifo f).occC = 0#16 → exec .get s = .next (s.respond (errorAnswer .get .empty))) ∧
      (∀ len : Index, (s.fifo f).occC.toNat < len.toNat →
        exec (.bulkRead len) s = .next (s.respond (errorAnswer (.bulkRead len) .underflow))) ∧
      (∀ index : Index, (s.fifo f).occC.toNat ≤ index.toNat →
        exec (.peekAt index) s = .next (s.respond (errorAnswer (.peekAt index) .outOfRange))))

/-- R190: MARK, LDB and STB without a window, a MARK longer than the window's run, an LDB or STB outside the window: the
status is `Contract`, `fault[f]` is set, and nothing else changes. -/
def Obligations.ContractBreachSetsFault : Prop :=
  Status.contract.code = 10#4 ∧
  ∀ (s : State) (f : FifoId),
    (s.Admitted f .consumer .complete →
      (∀ len : Index, (∀ l ∈ (s.fifo f).rdLease, l.run.toNat < len.toNat) →
        exec (.markC len) s =
          .next ((s.setFifo f { s.fifo f with fault := true }).respond (errorAnswer (.markC len) .contract))) ∧
      (∀ addr : Index,
        (∀ l ∈ (s.fifo f).rdLease, addr.toNat < l.ptr.toNat ∨ l.ptr.toNat + l.run.toNat ≤ addr.toNat) →
        exec (.ldb addr) s =
          .next ((s.setFifo f { s.fifo f with fault := true }).respond (errorAnswer (.ldb addr) .contract)))) ∧
    (s.Admitted f .producer .complete →
      (∀ len : Index, (∀ l ∈ (s.fifo f).wrLease, l.run.toNat < len.toNat) →
        exec (.markP len) s =
          .next ((s.setFifo f { s.fifo f with fault := true }).respond (errorAnswer (.markP len) .contract))) ∧
      (∀ (addr : Index) (b : Byte),
        (∀ l ∈ (s.fifo f).wrLease, addr.toNat < l.ptr.toNat ∨ l.ptr.toNat + l.run.toNat ≤ addr.toNat) →
        exec (.stb addr b) s =
          .next ((s.setFifo f { s.fifo f with fault := true }).respond (errorAnswer (.stb addr b) .contract))))

/-- R228, U2: a command that reads a storage byte nothing has written stops with the fault `unwrittenByte`. The model's
safe treatment; FIND is stated for the first byte of its first candidate (log entry 6). -/
def Obligations.UnwrittenByteIsFault : Prop :=
  ∀ (s : State) (f : FifoId), (s.fifo f).Shape (s.depth f) →
    (s.Admitted f .consumer .move →
      ((s.fifo f).occC ≠ 0#16 → s.content f 0 = none → exec .get s = .fault .unwrittenByte) ∧
      (∀ len : Index, len.toNat ≤ (s.fifo f).occC.toNat → (∃ k < len.toNat, s.content f k = none) →
        exec (.bulkRead len) s = .fault .unwrittenByte) ∧
      (∀ index : Index, index.toNat < (s.fifo f).occC.toNat → s.content f index.toNat = none →
        exec (.peekAt index) s = .fault .unwrittenByte) ∧
      (∀ pattern : List Byte, pattern ≠ [] → pattern.length ≤ (s.fifo f).occC.toNat → s.content f 0 = none →
        exec (.find pattern) s = .fault .unwrittenByte)) ∧
    (s.Admitted f .consumer .complete →
      ∀ (l : Lease) (addr : Index), (s.fifo f).Windows → (s.fifo f).rdLease = some l →
        l.ptr.toNat ≤ addr.toNat → addr.toNat < l.ptr.toNat + l.run.toNat →
        Memory.read (s.fifo f).storage addr.toNat = none → exec (.ldb addr) s = .fault .unwrittenByte)

/-! ## What each command does when it ends OK -/

/-- R80: INIT of an instance neither constructed nor failed, with a power of two not above `DEPTH[f]`, constructs it
empty; `storage` and `fault` are not touched. -/
def Obligations.InitConstructsInstance : Prop :=
  ∀ (s : State) (f : FifoId) (c : BitVec 24) (k : Nat),
    s.active = .k → s.fsm = .rest → (s.fifo f).valid = false → (s.fifo f).failed = false →
    c.toNat = 2 ^ k → c.toNat ≤ s.depth f →
    ∃ t, exec (.init f c) s = .next t ∧ s.Answered t (okWith 0#24) ∧
      (t.fifo f).valid = true ∧ (t.fifo f).failed = false ∧
      (t.fifo f).capacity.toNat = c.toNat ∧ (t.fifo f).mask.toNat + 1 = c.toNat ∧
      (t.fifo f).putIndex = 0#16 ∧ (t.fifo f).getIndex = 0#16 ∧ (t.fifo f).putSeen = 0#16 ∧
      (t.fifo f).getSeen = 0#16 ∧ (t.fifo f).putMail = none ∧ (t.fifo f).getMail = none ∧
      (t.fifo f).rdLease = none ∧ (t.fifo f).wrLease = none ∧
      (t.fifo f).storage = (s.fifo f).storage ∧ (t.fifo f).fault = (s.fifo f).fault

/-- R72, R80, R181, R192: INIT of an instance that is constructed or has failed ends `AlreadyInit` and changes nothing
else; INIT of another with zero, with no power of two, or with more than `DEPTH[f]` ends `InvalidSize`, and the only
state change is `failed[f]`. -/
def Obligations.InitRefusesAndRecords : Prop :=
  (Status.alreadyInit.code = 12#4 ∧ Status.invalidSize.code = 1#4) ∧
  ∀ (s : State) (f : FifoId) (c : BitVec 24), s.active = .k → s.fsm = .rest →
    ((s.fifo f).valid = true ∨ (s.fifo f).failed = true →
      exec (.init f c) s = .next (s.respond (errorAnswer (.init f c) .alreadyInit))) ∧
    ((s.fifo f).valid = false → (s.fifo f).failed = false → ((∀ k, c.toNat ≠ 2 ^ k) ∨ s.depth f < c.toNat) →
      exec (.init f c) s =
        .next ((s.setFifo f { s.fifo f with failed := true }).respond (errorAnswer (.init f c) .invalidSize)))

/-- R90: PUT into a FIFO that is not full in the producer's view writes the byte at `put_index`, advances it by one mod
the capacity, closes the write window, and answers `OK`. -/
def Obligations.PutStoresAndAdvances : Prop :=
  ∀ (s : State) (f : FifoId) (b : Byte), s.Admitted f .producer .move → (s.fifo f).Shape (s.depth f) →
    (s.fifo f).occP.toNat ≠ (s.fifo f).capacity.toNat - 1 →
    ∃ t, exec (.put b) s = .next t ∧ s.Answered t (okWith 0#24) ∧
      Memory.read (t.fifo f).storage (s.fifo f).putIndex.toNat = some b ∧
      (t.fifo f).putIndex.toNat = ((s.fifo f).putIndex.toNat + 1) % (s.fifo f).capacity.toNat ∧
      (t.fifo f).wrLease = none ∧
      (t.fifo f).putSeen = if s.params.syncEager then (t.fifo f).putIndex else (s.fifo f).putSeen

/-- R91: GET from a FIFO that is not empty in the consumer's view returns the oldest byte, advances `get_index` by one
mod the capacity, and closes the read window. -/
def Obligations.GetReturnsOldestByte : Prop :=
  ∀ (s : State) (f : FifoId) (b : Byte), s.Admitted f .consumer .move → (s.fifo f).Shape (s.depth f) →
    (s.fifo f).occC ≠ 0#16 → s.content f 0 = some b →
    ∃ t, exec .get s = .next t ∧ s.Answered t (okWith (b.setWidth 24)) ∧
      (t.fifo f).getIndex.toNat = ((s.fifo f).getIndex.toNat + 1) % (s.fifo f).capacity.toNat ∧
      (t.fifo f).rdLease = none ∧
      (t.fifo f).getSeen = if s.params.syncEager then (t.fifo f).getIndex else (s.fifo f).getSeen

/-- R92, R93: ELEMS and FREE answer the occupancy and the free space in the issuing side's view, and change nothing else;
at one port the two add up to `capacity - 1`. -/
def Obligations.ElemsAndFreeAnswerTheView : Prop :=
  ∀ (s : State) (f : FifoId) (side : Side), s.Admitted f side .query → (s.fifo f).Shape (s.depth f) →
    ∃ n m : Nat, n + m + 1 = (s.fifo f).capacity.toNat ∧
      n = (match side with
        | .producer => (s.fifo f).occP.toNat
        | .consumer => (s.fifo f).occC.toNat) ∧
      exec .elems s = .next (s.respond (okWith (BitVec.ofNat 24 n))) ∧
      exec .free s = .next (s.respond (okWith (BitVec.ofNat 24 m)))

/-- R100: BULK_WRITE of no more bytes than are free in the producer's view writes them all from `put_index` on, wrapping,
advances `put_index` by their number mod the capacity, and closes the write window unless there are none. -/
def Obligations.BulkWriteStoresAll : Prop :=
  ∀ (s : State) (f : FifoId) (payload : List Byte), s.Admitted f .producer .move → (s.fifo f).Shape (s.depth f) →
    payload.length ≤ (s.fifo f).freeP →
    ∃ t, exec (.bulkWrite payload) s = .next t ∧ s.Answered t (okWith 0#24) ∧
      (∀ k < payload.length,
        Memory.read (t.fifo f).storage (((s.fifo f).putIndex.toNat + k) % (s.fifo f).capacity.toNat) = payload[k]?) ∧
      (t.fifo f).putIndex.toNat = ((s.fifo f).putIndex.toNat + payload.length) % (s.fifo f).capacity.toNat ∧
      (t.fifo f).wrLease = (if payload = [] then (s.fifo f).wrLease else none) ∧
      (t.fifo f).putSeen = if s.params.syncEager then (t.fifo f).putIndex else (s.fifo f).putSeen

/-- R101: BULK_READ of no more bytes than the consumer sees returns the bytes at logical offsets 0 to `len` - 1 in order,
advances `get_index` by `len` mod the capacity, and closes the read window unless `len` = 0. -/
def Obligations.BulkReadReturnsAll : Prop :=
  ∀ (s : State) (f : FifoId) (len : Index), s.Admitted f .consumer .move → (s.fifo f).Shape (s.depth f) →
    len.toNat ≤ (s.fifo f).occC.toNat → (∀ k < len.toNat, s.content f k ≠ none) →
    ∃ t bytes, exec (.bulkRead len) s = .next t ∧
      s.Answered t { status := .ok, val := len.setWidth 24, rsp1 := none, payload := bytes } ∧
      bytes.length = len.toNat ∧ (∀ k < len.toNat, bytes[k]? = s.content f k) ∧
      (t.fifo f).getIndex.toNat = ((s.fifo f).getIndex.toNat + len.toNat) % (s.fifo f).capacity.toNat ∧
      (t.fifo f).rdLease = (if len = 0#16 then (s.fifo f).rdLease else none) ∧
      (t.fifo f).getSeen = if s.params.syncEager then (t.fifo f).getIndex else (s.fifo f).getSeen

/-- R110: PEEK_R opens the window from `get_index` of `min(occ_c, capacity - get_index)` bytes and returns it; an empty
run opens none; no index moves. -/
def Obligations.PeekROpensReadWindow : Prop :=
  ∀ (s : State) (f : FifoId), s.Admitted f .consumer .move → (s.fifo f).Shape (s.depth f) →
    ∃ (t : State) (run : Index), exec .peekR s = .next t ∧
      run.toNat = min (s.fifo f).occC.toNat ((s.fifo f).capacity.toNat - (s.fifo f).getIndex.toNat) ∧
      s.Answered t
        { status := .ok, val := run.setWidth 24, rsp1 := some ((s.fifo f).getIndex.setWidth 32), payload := [] } ∧
      (t.fifo f).rdLease = (if run = 0#16 then none else some { ptr := (s.fifo f).getIndex, run := run }) ∧
      (t.fifo f).getIndex = (s.fifo f).getIndex ∧ (t.fifo f).getSeen = (s.fifo f).getSeen

/-- R111: MARK_C of no more bytes than the open read window's run advances `get_index` by `len` mod the capacity and closes
the window. -/
def Obligations.MarkCRetires : Prop :=
  ∀ (s : State) (f : FifoId) (len : Index) (l : Lease), s.Admitted f .consumer .complete →
    (s.fifo f).Shape (s.depth f) → (s.fifo f).rdLease = some l → len.toNat ≤ l.run.toNat →
    ∃ t, exec (.markC len) s = .next t ∧ s.Answered t (okWith 0#24) ∧
      (t.fifo f).getIndex.toNat = ((s.fifo f).getIndex.toNat + len.toNat) % (s.fifo f).capacity.toNat ∧
      (t.fifo f).rdLease = none ∧
      (t.fifo f).getSeen = if s.params.syncEager then (t.fifo f).getIndex else (s.fifo f).getSeen

/-- R112: PEEK_W opens the longest window from `put_index` that stops at the physical end and keeps the reserved slot, in
the three cases of the rule by the consumer index the producer sees; an empty run opens none; no index moves. -/
def Obligations.PeekWOpensWriteWindow : Prop :=
  ∀ (s : State) (f : FifoId), s.Admitted f .producer .move → (s.fifo f).Shape (s.depth f) →
    ∃ (t : State) (run : Index), exec .peekW s = .next t ∧
      run.toNat =
        (if (s.fifo f).getSeen = 0#16 then (s.fifo f).capacity.toNat - 1 - (s.fifo f).putIndex.toNat
        else if (s.fifo f).getSeen.toNat ≤ (s.fifo f).putIndex.toNat then
          (s.fifo f).capacity.toNat - (s.fifo f).putIndex.toNat
        else (s.fifo f).getSeen.toNat - (s.fifo f).putIndex.toNat - 1) ∧
      s.Answered t
        { status := .ok, val := run.setWidth 24, rsp1 := some ((s.fifo f).putIndex.setWidth 32), payload := [] } ∧
      (t.fifo f).wrLease = (if run = 0#16 then none else some { ptr := (s.fifo f).putIndex, run := run }) ∧
      (t.fifo f).putIndex = (s.fifo f).putIndex ∧ (t.fifo f).putSeen = (s.fifo f).putSeen

/-- R113: MARK_P of no more bytes than the open write window's run advances `put_index` by `len` mod the capacity and
closes the window. -/
def Obligations.MarkPPublishes : Prop :=
  ∀ (s : State) (f : FifoId) (len : Index) (l : Lease), s.Admitted f .producer .complete →
    (s.fifo f).Shape (s.depth f) → (s.fifo f).wrLease = some l → len.toNat ≤ l.run.toNat →
    ∃ t, exec (.markP len) s = .next t ∧ s.Answered t (okWith 0#24) ∧
      (t.fifo f).putIndex.toNat = ((s.fifo f).putIndex.toNat + len.toNat) % (s.fifo f).capacity.toNat ∧
      (t.fifo f).wrLease = none ∧
      (t.fifo f).putSeen = if s.params.syncEager then (t.fifo f).putIndex else (s.fifo f).putSeen

/-- R114: LDB inside the open read window returns the byte of that storage address and changes nothing else. -/
def Obligations.LdbReadsWindow : Prop :=
  ∀ (s : State) (f : FifoId) (addr : Index) (l : Lease) (b : Byte), s.Admitted f .consumer .complete →
    (s.fifo f).Shape (s.depth f) → (s.fifo f).Windows → (s.fifo f).rdLease = some l →
    l.ptr.toNat ≤ addr.toNat → addr.toNat < l.ptr.toNat + l.run.toNat →
    Memory.read (s.fifo f).storage addr.toNat = some b →
    exec (.ldb addr) s = .next (s.respond (okWith (b.setWidth 24)))

/-- R115: STB inside the open write window writes the byte at that storage address; the window stays open and no index
moves. -/
def Obligations.StbWritesWindow : Prop :=
  ∀ (s : State) (f : FifoId) (addr : Index) (b : Byte) (l : Lease), s.Admitted f .producer .complete →
    (s.fifo f).Shape (s.depth f) → (s.fifo f).Windows → (s.fifo f).wrLease = some l →
    l.ptr.toNat ≤ addr.toNat → addr.toNat < l.ptr.toNat + l.run.toNat →
    ∃ t, exec (.stb addr b) s = .next t ∧ s.Answered t (okWith 0#24) ∧
      Memory.read (t.fifo f).storage addr.toNat = some b ∧ (t.fifo f).wrLease = some l ∧
      (t.fifo f).putIndex = (s.fifo f).putIndex ∧ (t.fifo f).putSeen = (s.fifo f).putSeen

/-- R130, R185: FIND of a pattern over visible content that is all written answers the least logical offset at which the
pattern stands, across the wrap, or `NotFound` where it stands nowhere; an empty pattern ends `Illegal`. Nothing else
changes. -/
def Obligations.FindAnswersFirstMatch : Prop :=
  (∀ s : State, exec (.find []) s = .next (s.respond (errorAnswer (.find []) .illegal))) ∧
  ∀ (s : State) (f : FifoId) (pattern : List Byte), s.Admitted f .consumer .move → (s.fifo f).Shape (s.depth f) →
    pattern ≠ [] → (∀ k < (s.fifo f).occC.toNat, s.content f k ≠ none) →
    (∀ k, s.PatternAt f pattern k → (∀ j < k, ¬ s.PatternAt f pattern j) →
      exec (.find pattern) s = .next (s.respond (okWith (BitVec.ofNat 24 k)))) ∧
    ((∀ k, ¬ s.PatternAt f pattern k) →
      exec (.find pattern) s = .next (s.respond (errorAnswer (.find pattern) .notFound)))

/-- R131: PEEK_AT of a visible offset returns the byte there, counted from 0 at `get_index`, and changes nothing else. -/
def Obligations.PeekAtReadsOffset : Prop :=
  ∀ (s : State) (f : FifoId) (index : Index) (b : Byte), s.Admitted f .consumer .move →
    (s.fifo f).Shape (s.depth f) → index.toNat < (s.fifo f).occC.toNat → s.content f index.toNat = some b →
    exec (.peekAt index) s = .next (s.respond (okWith (b.setWidth 24)))

/-- R150, R163: an accepted LINE_STATE sets the link and `paused` by its assertion, on every event, and a deasserted one
emits `activity_clear`; with the default of the parameter the assertion is `dtr OR rts`. -/
def Obligations.LineStateAppliesEvent : Prop :=
  (∀ (s : State) (dtr rts : Bool), s.active = .k → s.fsm = .rest →
    ∃ t, exec (.lineState dtr rts) s = .next t ∧ s.Answered t (okWith 0#24) ∧
      (linkAsserted s.params.linkAssert dtr rts = true →
        t.link = .active ∧ t.paused = false ∧ t.events = s.events) ∧
      (linkAsserted s.params.linkAssert dtr rts = false →
        t.link = .inactive ∧ t.paused = true ∧ t.events = s.events ++ [.activityClear])) ∧
  ∀ dtr rts, linkAsserted Params.default.linkAssert dtr rts = (dtr || rts)

/-- R151, R208: an accepted LINE_CODING latches the raw request, sets `paused` and hands control to TEARDOWN; no operand
value is refused. -/
def Obligations.LineCodingEntersReconfiguration : Prop :=
  ∀ (s : State) (stopRaw parityRaw dataRaw : Byte) (baud : Word), s.active = .k → s.fsm = .rest →
    ∃ t, exec (.lineCoding stopRaw parityRaw dataRaw baud) s = .next t ∧ s.Answered t (okWith 0#24) ∧
      t.reqCfg = { baud := baud, dataRaw := dataRaw, parityRaw := parityRaw, stopRaw := stopRaw } ∧
      t.paused = true ∧ t.fsm = .teardown ∧ t.reqWritten = true

/-- R31 to R34, R152: RDREG of each register of the map, in every sequencer state, returns the register's value and
changes nothing else; an unassigned number, and a global register with `f` = 1, ends `Illegal`. The registers that can
be unspecified are stated where they hold a written value. -/
def Obligations.RdregReturnsRegisterMap : Prop :=
  ∀ (s : State) (f : FifoId), s.active = .k →
    (exec (.rdreg f 0x00#8) s = .next (s.respond (rdregAnswer
      (if (s.fifo f).valid then (s.fifo f).capacity.setWidth 32 else 0#32)))) ∧
    (exec (.rdreg f 0x01#8) s = .next (s.respond (rdregAnswer
      (if (s.fifo f).valid then (s.fifo f).mask.setWidth 32 else 0#32)))) ∧
    exec (.rdreg f 0x02#8) s = .next (s.respond (rdregAnswer ((s.fifo f).putIndex.setWidth 32))) ∧
    exec (.rdreg f 0x03#8) s = .next (s.respond (rdregAnswer ((s.fifo f).getIndex.setWidth 32))) ∧
    exec (.rdreg f 0x04#8) s = .next (s.respond (rdregAnswer ((s.fifo f).putSeen.setWidth 32))) ∧
    exec (.rdreg f 0x05#8) s = .next (s.respond (rdregAnswer ((s.fifo f).getSeen.setWidth 32))) ∧
    exec (.rdreg f 0x06#8) s = .next (s.respond (rdregAnswer (BitVec.ofNat 32
      ((s.fifo f).valid.toNat + 2 * (s.fifo f).failed.toNat + 4 * (s.fifo f).rdLease.isSome.toNat +
        8 * (s.fifo f).wrLease.isSome.toNat + 16 * (s.fifo f).putMail.isSome.toNat +
        32 * (s.fifo f).getMail.isSome.toNat + 64 * (s.fifo f).fault.toNat)))) ∧
    ((s.fifo f).rdLease = none → exec (.rdreg f 0x07#8) s = .next (s.respond (rdregAnswer 0#32))) ∧
    (∀ l, (s.fifo f).rdLease = some l →
      exec (.rdreg f 0x07#8) s = .next (s.respond (rdregAnswer (BitVec.ofNat 32 (65536 * l.run.toNat + l.ptr.toNat))))) ∧
    ((s.fifo f).wrLease = none → exec (.rdreg f 0x08#8) s = .next (s.respond (rdregAnswer 0#32))) ∧
    (∀ l, (s.fifo f).wrLease = some l →
      exec (.rdreg f 0x08#8) s = .next (s.respond (rdregAnswer (BitVec.ofNat 32 (65536 * l.run.toNat + l.ptr.toNat))))) ∧
    exec (.rdreg .h2d 0x10#8) s = .next (s.respond (rdregAnswer (BitVec.ofNat 32
      (match s.fsm with
        | .rest => 0
        | .teardown => 1
        | .drain => 2
        | .clear => 3
        | .validate => 4
        | .retime => 5
        | .reinit => 6
        | .resume => 7)))) ∧
    exec (.rdreg .h2d 0x11#8) s = .next (s.respond (rdregAnswer (BitVec.ofNat 32
      (s.paused.toNat + 2 * s.uartUp.toNat + 4 * (decide (s.link = .active)).toNat + 8 * s.coerced.toNat +
        16 * s.cfgValid.toNat)))) ∧
    (s.cfgValid = true →
      exec (.rdreg .h2d 0x12#8) s = .next (s.respond (rdregAnswer s.lineConfig.baudRate)) ∧
      exec (.rdreg .h2d 0x13#8) s = .next (s.respond (rdregAnswer (BitVec.ofNat 32
        ((match s.lineConfig.dataBits with
          | .five => 5
          | .six => 6
          | .seven => 7
          | .eight => 8) +
        16 * (match s.lineConfig.stopBits with
          | .one => 1
          | .two => 2) +
        256 * (match s.lineConfig.parity with
          | .none => 0
          | .odd => 1
          | .even => 2))))) ∧
      (s.pollWritten = true →
        exec (.rdreg .h2d 0x14#8) s = .next (s.respond (rdregAnswer s.pollInterval)))) ∧
    (s.reqWritten = true →
      exec (.rdreg .h2d 0x15#8) s = .next (s.respond (rdregAnswer s.reqCfg.baud)) ∧
      exec (.rdreg .h2d 0x16#8) s = .next (s.respond (rdregAnswer (BitVec.ofNat 32
        (65536 * s.reqCfg.stopRaw.toNat + 256 * s.reqCfg.parityRaw.toNat + s.reqCfg.dataRaw.toNat))))) ∧
    (∀ n : BitVec 8, (0x08 < n.toNat ∧ n.toNat < 0x10) ∨ 0x16 < n.toNat →
      exec (.rdreg f n) s = .next (s.respond (errorAnswer (.rdreg f n) .illegal))) ∧
    (∀ n : BitVec 8, 0x10 ≤ n.toNat → exec (.rdreg .d2h n) s = .next (s.respond (errorAnswer (.rdreg .d2h n) .illegal)))

/-- R38, U4: RDREG of a control register that nothing has written since hardware reset ends `OK`, returns a free value in
the bits its fields occupy, and draws a fresh one for the next; nothing else changes. The form of the free value is
the model's (log entries 4 and 5); nothing is said of which value it is. -/
def Obligations.RdregOfUnwrittenRegisterIsFree : Prop :=
  ∀ (s : State), s.active = .k →
    (s.cfgValid = false →
      exec (.rdreg .h2d 0x12#8) s =
        .next (State.respond { s with draws := s.draws + 1 } (rdregAnswer (Config.freeWord s.draws))) ∧
      exec (.rdreg .h2d 0x13#8) s =
        .next (State.respond { s with draws := s.draws + 1 }
          (rdregAnswer (Config.freeWord s.draws &&& 0x0000033F#32)))) ∧
    (s.cfgValid = false ∨ s.pollWritten = false →
      exec (.rdreg .h2d 0x14#8) s =
        .next (State.respond { s with draws := s.draws + 1 } (rdregAnswer (Config.freeWord s.draws)))) ∧
    (s.reqWritten = false →
      exec (.rdreg .h2d 0x15#8) s =
        .next (State.respond { s with draws := s.draws + 1 } (rdregAnswer (Config.freeWord s.draws))) ∧
      exec (.rdreg .h2d 0x16#8) s =
        .next (State.respond { s with draws := s.draws + 1 }
          (rdregAnswer (Config.freeWord s.draws &&& 0x00FFFFFF#32))))

/-! ## Frames: what a command leaves unchanged, whatever its status -/

/-- R90, R100: PUT and BULK_WRITE write `put_index[f]`, `wr_lease[f]`, with `SYNC_EAGER` `put_seen[f]`, and the bytes at
`put_index[f]`, `put_index[f]` + 1, ... of `storage[f]`, and nothing else but their response. -/
def Obligations.FramePutBulkWrite : Prop :=
  ∀ (i : Instr) (payload : List Byte), ((∃ b, i = .put b ∧ payload = [b]) ∨ i = .bulkWrite payload) →
    ∀ s t : State, exec i s = .next t → s.FrameOutsideFifo t ∧
      ∀ f, (s.fifo f).SameConstruction (t.fifo f) ∧ (s.fifo f).SameConsumerSide (t.fifo f) ∧
        (t.fifo f).fault = (s.fifo f).fault ∧
        (s.params.syncEager = false → (t.fifo f).putSeen = (s.fifo f).putSeen) ∧
        ∀ a, (∀ k < payload.length, a ≠ s.putAddr f k) →
          Memory.read (t.fifo f).storage a = Memory.read (s.fifo f).storage a

/-- R115, R21: STB writes the byte at `addr` of `storage[f]`, or the fault bit, and nothing else but its response. -/
def Obligations.FrameStb : Prop :=
  ∀ (addr : Index) (b : Byte) (s t : State), exec (.stb addr b) s = .next t → s.FrameOutsideFifo t ∧
    ∀ f, (s.fifo f).SameConstruction (t.fifo f) ∧ (s.fifo f).SameConsumerSide (t.fifo f) ∧
      (s.fifo f).SameProducerSide (t.fifo f) ∧
      ((t.fifo f).fault = (s.fifo f).fault ∨ s.Answered t (errorAnswer (.stb addr b) .contract)) ∧
      ∀ a, a ≠ addr.toNat → Memory.read (t.fifo f).storage a = Memory.read (s.fifo f).storage a

/-- R112, R113, R21: PEEK_W writes `wr_lease[f]`; MARK_P writes `put_index[f]`, `wr_lease[f]` and with `SYNC_EAGER`
`put_seen[f]`, or the fault bit; nothing else but the response, and no storage byte. -/
def Obligations.FramePeekWMarkP : Prop :=
  ∀ (i : Instr), (i = .peekW ∨ ∃ len, i = .markP len) →
    ∀ s t : State, exec i s = .next t → s.FrameOutsideFifo t ∧
      ∀ f, (s.fifo f).SameConstruction (t.fifo f) ∧ (s.fifo f).SameConsumerSide (t.fifo f) ∧
        (i = .peekW → (t.fifo f).putIndex = (s.fifo f).putIndex ∧ (t.fifo f).putSeen = (s.fifo f).putSeen) ∧
        (s.params.syncEager = false → (t.fifo f).putSeen = (s.fifo f).putSeen) ∧
        ((t.fifo f).fault = (s.fifo f).fault ∨ (i ≠ .peekW ∧ s.Answered t (errorAnswer i .contract))) ∧
        ∀ a, Memory.read (t.fifo f).storage a = Memory.read (s.fifo f).storage a

/-- R91, R101, R110, R111, R21: GET, BULK_READ and MARK_C write `get_index[f]`, `rd_lease[f]` and with `SYNC_EAGER`
`get_seen[f]`; PEEK_R writes `rd_lease[f]`; MARK_C may set the fault bit; nothing else but the response, and no storage
byte. -/
def Obligations.FrameConsumerMoves : Prop :=
  ∀ (i : Instr), (i = .get ∨ (∃ len, i = .bulkRead len) ∨ i = .peekR ∨ ∃ len, i = .markC len) →
    ∀ s t : State, exec i s = .next t → s.FrameOutsideFifo t ∧
      ∀ f, (s.fifo f).SameConstruction (t.fifo f) ∧ (s.fifo f).SameProducerSide (t.fifo f) ∧
        (i = .peekR → (t.fifo f).getIndex = (s.fifo f).getIndex ∧ (t.fifo f).getSeen = (s.fifo f).getSeen) ∧
        (s.params.syncEager = false → (t.fifo f).getSeen = (s.fifo f).getSeen) ∧
        ((t.fifo f).fault = (s.fifo f).fault ∨ ((∃ len, i = .markC len) ∧ s.Answered t (errorAnswer i .contract))) ∧
        ∀ a, Memory.read (t.fifo f).storage a = Memory.read (s.fifo f).storage a

/-- R46, R92, R93, R114, R130, R131, R152: ELEMS, FREE, FIND, PEEK_AT, LDB and RDREG change nothing but their response,
save the fault bit by an LDB that ends `Contract`, and by an RDREG the model's own count of free values. -/
def Obligations.FrameReads : Prop :=
  ∀ (i : Instr),
    (i = .elems ∨ i = .free ∨ (∃ p, i = .find p) ∨ (∃ n, i = .peekAt n) ∨ (∃ a, i = .ldb a) ∨ ∃ f n, i = .rdreg f n) →
    ∀ s t : State, exec i s = .next t →
      State.SameControl { s with draws := t.draws } t ∧ ((∀ f n, i ≠ .rdreg f n) → t.draws = s.draws) ∧
      s.SameTurns t ∧ s.SamePorts t ∧
      ∀ f, t.fifo f = s.fifo f ∨
        ((∃ a, i = .ldb a) ∧ s.Answered t (errorAnswer i .contract) ∧ t.fifo f = { s.fifo f with fault := true })

/-- R80: INIT of f changes nothing of the other FIFO, no storage byte, no fault bit, nothing of the sequencer, and no port
but its response. -/
def Obligations.FrameInit : Prop :=
  ∀ (f : FifoId) (c : BitVec 24) (s t : State), exec (.init f c) s = .next t →
    s.SameControl t ∧ s.SameTurns t ∧ s.SamePorts t ∧ t.fifo (otherFifo f) = s.fifo (otherFifo f) ∧
    (t.fifo f).fault = (s.fifo f).fault ∧
    ∀ a, Memory.read (t.fifo f).storage a = Memory.read (s.fifo f).storage a

/-- R150, R151: LINE_STATE changes only `link_state`, `paused` and `events`; LINE_CODING only `req_cfg`, `paused` and
`fsm_state` (and the model's record that `req_cfg` was written); no FIFO and no port but the response. -/
def Obligations.FrameLineCommands : Prop :=
  (∀ (dtr rts : Bool) (s t : State), exec (.lineState dtr rts) s = .next t →
    State.SameControl { s with link := t.link, paused := t.paused, events := t.events } t ∧
    s.SameTurns t ∧ s.SamePorts t ∧ ∀ f, t.fifo f = s.fifo f) ∧
  ∀ (stopRaw parityRaw dataRaw : Byte) (baud : Word) (s t : State),
    exec (.lineCoding stopRaw parityRaw dataRaw baud) s = .next t →
    State.SameControl
      { s with reqCfg := t.reqCfg, paused := t.paused, fsm := t.fsm, reqWritten := t.reqWritten } t ∧
    s.SameTurns t ∧ s.SamePorts t ∧ ∀ f, t.fifo f = s.fifo f

/-! ## The sequencer -/

/-- R23, R153, R155: the sequencer has a step in every state but REST and an undrained DRAIN, and each step goes to the
next state of the fixed order, RESUME back to REST. -/
def Obligations.SequencerOrder : Prop :=
  ∀ s : State,
    (fsmStep s = none ↔ s.fsm = .rest ∨
      (s.fsm = .drain ∧ ((s.fifo .h2d).rdLease ≠ none ∨ (s.fifo .d2h).wrLease ≠ none))) ∧
    ∀ t, fsmStep s = some t → t.phase = (s.phase + 1) % 8

/-- R155: DRAIN has a step exactly when `rd_lease[0]` and `wr_lease[1]` are `None`, and that step only goes on to
CLEAR. -/
def Obligations.DrainWaitsForHardwareWindows : Prop :=
  ∀ s : State, s.fsm = .drain →
    ∀ t, fsmStep s = some t ↔
      ((s.fifo .h2d).rdLease = none ∧ (s.fifo .d2h).wrLease = none ∧ t = { s with fsm := .clear })

/-- R81, R156: CLEAR performs RESET on both FIFOs in one step: of a constructed one every index, seen copy, mailbox and
window is cleared and nothing else changes, one that is not constructed stays as it is. -/
def Obligations.ClearEmptiesBothFifos : Prop :=
  ∀ s : State, s.fsm = .clear → ∃ t, fsmStep s = some t ∧ t.fsm = .validate ∧
    (∀ f, (s.fifo f).valid = false → t.fifo f = s.fifo f) ∧
    (∀ f, (s.fifo f).valid = true →
      t.fifo f =
        { s.fifo f with
          putIndex := 0#16, getIndex := 0#16, putSeen := 0#16, getSeen := 0#16
          putMail := none, getMail := none, rdLease := none, wrLease := none } ∧
      (t.fifo f).occTrue = 0#16) ∧
    t = { s with fifo0 := t.fifo .h2d, fifo1 := t.fifo .d2h, fsm := .validate }

/-- R82: RESET applied twice is RESET applied once, on any instance; and after it a constructed instance is empty in every
view. -/
def Obligations.ResetIsIdempotent : Prop :=
  ∀ x : Fifo, x.clear.clear = x.clear ∧
    (x.valid = true → x.clear.occTrue = 0#16 ∧ x.clear.occP = 0#16 ∧ x.clear.occC = 0#16)

/-- R157, R158: VALIDATE resolves the request field by field: a supported value is kept, an unsupported one becomes that
field's default (8 data bits, 1 stop bit, no parity), the baud rate is copied, `coerced` says whether any field was
unsupported, `cfg_valid` is set; nothing else changes. -/
def Obligations.ValidateResolvesSettings : Prop :=
  ∀ s : State, s.fsm = .validate →
    ∃ c : LineConfig,
      fsmStep s = some { s with
        lineConfig := c, cfgValid := true, fsm := .retime
        coerced :=
          !(decide (5 ≤ s.reqCfg.dataRaw.toNat ∧ s.reqCfg.dataRaw.toNat ≤ 8) &&
            decide (s.reqCfg.stopRaw = 0#8 ∨ s.reqCfg.stopRaw = 2#8) && decide (s.reqCfg.parityRaw.toNat ≤ 2)) } ∧
      c.baudRate = s.reqCfg.baud ∧
      (5 ≤ s.reqCfg.dataRaw.toNat ∧ s.reqCfg.dataRaw.toNat ≤ 8 →
        (dataBitsCode c.dataBits).toNat = s.reqCfg.dataRaw.toNat) ∧
      (s.reqCfg.dataRaw.toNat < 5 ∨ 8 < s.reqCfg.dataRaw.toNat → c.dataBits = .eight) ∧
      (s.reqCfg.stopRaw = 2#8 → c.stopBits = .two) ∧ (s.reqCfg.stopRaw ≠ 2#8 → c.stopBits = .one) ∧
      (s.reqCfg.parityRaw = 1#8 → c.parity = .odd) ∧ (s.reqCfg.parityRaw = 2#8 → c.parity = .even) ∧
      (s.reqCfg.parityRaw ≠ 1#8 → s.reqCfg.parityRaw ≠ 2#8 → c.parity = .none)

/-- R159, R196: RETIME writes only `poll_interval` (and goes on), from the machine's `poll_fn`, which obeys P2 to P4 for
the reference instance and for the unknown one alike. -/
def Obligations.RetimeObeysPollLaws : Prop :=
  (∀ s : State, s.fsm = .retime →
    fsmStep s = some { s with
      pollInterval := pollFn s.params.poll s.lineConfig.baudRate, pollWritten := true, fsm := .reinit }) ∧
  ∀ c : PollChoice,
    (∀ b : Word, (minTick c).toNat ≤ (pollFn c b).toNat) ∧
    (∀ b₁ b₂ : Word, 0 < b₁.toNat → b₁.toNat ≤ b₂.toNat → (pollFn c b₂).toNat ≤ (pollFn c b₁).toNat) ∧
    (pollFn c 115200#32).toNat < (pollFn c 9600#32).toNat

/-- R154: TEARDOWN takes the UART down and emits `uart_deinit`. R160: REINIT emits `uart_configure` with the
resolved settings and brings the UART up. Neither changes anything else but the sequencer's state. -/
def Obligations.TeardownAndReinitDriveUart : Prop :=
  ∀ s : State,
    (s.fsm = .teardown →
      fsmStep s = some { s with uartUp := false, events := s.events ++ [.uartDeinit], fsm := .drain }) ∧
    (s.fsm = .reinit →
      fsmStep s =
        some { s with uartUp := true, events := s.events ++ [.uartConfigure s.lineConfig], fsm := .resume })

/-- R161, R209: RESUME returns to REST; `paused` stays set only with `RESUME_RESPECTS_LINK` and an inactive link. -/
def Obligations.ResumeReturnsToRest : Prop :=
  ∀ s : State, s.fsm = .resume →
    (s.params.resumeRespectsLink = true ∧ s.link = .inactive →
      fsmStep s = some { s with paused := true, fsm := .rest }) ∧
    (s.params.resumeRespectsLink = false ∨ s.link = .active →
      fsmStep s = some { s with paused := false, fsm := .rest })

/-- R153 to R161: from TEARDOWN with no hardware-side window open, seven sequencer steps in a row are enabled and end in
REST with both FIFOs cleared, the request resolved and in force, the interval new, the UART up, and exactly the two
UART events emitted. -/
def Obligations.ReconfigurationEndsInRest : Prop :=
  ∀ s : State, s.fsm = .teardown → (s.fifo .h2d).rdLease = none → (s.fifo .d2h).wrLease = none →
    ∃ t, fsmSteps 7 s = some t ∧ t.fsm = .rest ∧ (∀ f, t.fifo f = (s.fifo f).clear) ∧
      t.lineConfig = coerce s.reqCfg ∧ t.coerced = coercionNeeded s.reqCfg ∧ t.cfgValid = true ∧
      t.pollInterval = pollFn s.params.poll s.reqCfg.baud ∧ t.uartUp = true ∧
      t.events = s.events ++ [.uartDeinit, .uartConfigure (coerce s.reqCfg)] ∧
      t.paused = (s.params.resumeRespectsLink && decide (s.link = .inactive)) ∧
      t.link = s.link ∧ t.reqCfg = s.reqCfg

/-! ## The synchronisers -/

/-- R140 to R143: when each of the four crossing steps is enabled, and all it changes. The two LAND clauses follow R141 and
R143 to the letter, which do not name `SYNC_EAGER`; where it meets a full mailbox, in states no run reaches, R144 says that
no step is enabled: there the clauses are the model's reading (DEDUCED, log entry 13), and R144 is stated by
`QuiescentIffNoStepEnabled` over the states it describes. -/
def Obligations.CrossingSteps : Prop :=
  ∀ (s t : State) (f : FifoId),
    (launchPut f s = some t ↔
      (s.fifo f).valid = true ∧ s.params.syncEager = false ∧ (s.fifo f).putMail = none ∧
        (s.fifo f).putIndex ≠ (s.fifo f).putSeen ∧
        t = s.setFifo f { s.fifo f with putMail := some (s.fifo f).putIndex }) ∧
    (landPut f s = some t ↔
      (s.fifo f).valid = true ∧ ∃ v, (s.fifo f).putMail = some v ∧
        t = s.setFifo f { s.fifo f with putSeen := v, putMail := none }) ∧
    (launchGet f s = some t ↔
      (s.fifo f).valid = true ∧ s.params.syncEager = false ∧ (s.fifo f).getMail = none ∧
        (s.fifo f).getIndex ≠ (s.fifo f).getSeen ∧
        t = s.setFifo f { s.fifo f with getMail := some (s.fifo f).getIndex }) ∧
    (landGet f s = some t ↔
      (s.fifo f).valid = true ∧ ∃ v, (s.fifo f).getMail = some v ∧
        t = s.setFifo f { s.fifo f with getSeen := v, getMail := none })

/-- R17, R145: a lagging view is conservative: `occ_c <= occ_true <= occ_p`, whatever the schedule. -/
def Obligations.LaggingViewIsConservative : Prop :=
  ∀ (x : Fifo) (depth : Nat), x.valid = true → x.Shape depth → x.Ordered →
    x.occC.toNat ≤ x.occTrue.toNat ∧ x.occTrue.toNat ≤ x.occP.toNat ∧ x.occP.toNat < x.capacity.toNat

/-- R144, R146: the synchronisers of a constructed f are quiescent exactly when none of the four steps is enabled, and
then the three occupancy functions agree; with `SYNC_EAGER` (in the states of R144) none is ever enabled. -/
def Obligations.QuiescentIffNoStepEnabled : Prop :=
  ∀ (s : State) (f : FifoId),
    ((s.fifo f).valid = true → s.params.syncEager = false →
      ((launchPut f s = none ∧ landPut f s = none ∧ launchGet f s = none ∧ landGet f s = none) ↔ (s.fifo f).Eager)) ∧
    ((s.fifo f).Eager →
      (s.fifo f).occC = (s.fifo f).occTrue ∧ (s.fifo f).occP = (s.fifo f).occTrue ∧
        launchPut f s = none ∧ landPut f s = none ∧ launchGet f s = none ∧ landGet f s = none)

/-! ## Whole-machine rules -/

/-- R10 to R20, R144, R212, R225: every step from a state that meets the invariant ends in a state that meets it. -/
def Obligations.StepKeepsInvariant : Prop :=
  ∀ s t : State, s.Inv → step s = .next t → t.Inv

/-- R38: the state after hardware reset meets the invariant. -/
def Obligations.ResetMeetsInvariant : Prop := State.reset.Inv

/-- R38, R220: hardware reset from any state leaves every register for which R38 states a value at that value, and no
storage byte written; `State.reset` is such a state. -/
def Obligations.HardResetLeavesSpecifiedValues : Prop :=
  (∀ s : State, ∃ t, internalStep .hardReset s = some t ∧
    t.fifo .h2d = Fifo.reset ∧ t.fifo .d2h = Fifo.reset ∧ t.fsm = .rest ∧ t.paused = true ∧ t.uartUp = false ∧
    t.link = .inactive ∧ t.cfgValid = false ∧ t.coerced = false ∧ t.events = [] ∧
    t.reqWritten = false ∧ t.pollWritten = false ∧ t.params = s.params) ∧
  State.reset.hardReset = State.reset ∧
  Fifo.reset.valid = false ∧ Fifo.reset.failed = false ∧ Fifo.reset.capacity = 0#17 ∧ Fifo.reset.mask = 0#16 ∧
  Fifo.reset.putIndex = 0#16 ∧ Fifo.reset.getIndex = 0#16 ∧ Fifo.reset.putSeen = 0#16 ∧ Fifo.reset.getSeen = 0#16 ∧
  Fifo.reset.putMail = none ∧ Fifo.reset.getMail = none ∧ Fifo.reset.rdLease = none ∧ Fifo.reset.wrLease = none ∧
  Fifo.reset.fault = false ∧ ∀ a, Memory.read Fifo.reset.storage a = none

/-- R21: any command on FIFO f that ends `Contract` sets `fault[f]`; no step clears it but the hardware reset, which
does. -/
def Obligations.FaultBitIsSticky : Prop :=
  (∀ (i : Instr) (s t : State) (f : FifoId) (side : Side) (r : Response), exec i s = .next t →
    portRole s.active = some (f, side) → s.Answered t r → r.status = .contract → (t.fifo f).fault = true) ∧
  (∀ (s t : State) (f : FifoId), step s = .next t → s.takeTurn.1 ≠ .hardReset →
    (s.fifo f).fault = true → (t.fifo f).fault = true) ∧
  ∀ (s : State) (f : FifoId), (s.hardReset.fifo f).fault = false

/-- R10, R11, R83: a constructed instance stays constructed with its capacity and mask, and a failed one stays failed and
unconstructed, through every step but the hardware reset. -/
def Obligations.ConstructionIsPermanent : Prop :=
  ∀ (s t : State) (f : FifoId), step s = .next t → s.takeTurn.1 ≠ .hardReset →
    ((s.fifo f).valid = true →
      (t.fifo f).valid = true ∧ (t.fifo f).capacity = (s.fifo f).capacity ∧ (t.fifo f).mask = (s.fifo f).mask ∧
        (t.fifo f).failed = (s.fifo f).failed) ∧
    ((s.fifo f).failed = true → (t.fifo f).failed = true ∧ (t.fifo f).valid = (s.fifo f).valid)

/-- R14, R22, R211: a step changes `put_index[f]` only in a turn of the producer port of f, of the control port (INIT), of
the sequencer in CLEAR, or by hardware reset; and `get_index[f]` only with the consumer port in its place. -/
def Obligations.IndexOwnership : Prop :=
  ∀ (s t : State) (f : FifoId), step s = .next t →
    ((t.fifo f).putIndex ≠ (s.fifo f).putIndex →
      s.takeTurn.1 = .port (producerPort f) ∨ s.takeTurn.1 = .port .k ∨ (s.takeTurn.1 = .fsm ∧ s.fsm = .clear) ∨
        s.takeTurn.1 = .hardReset) ∧
    ((t.fifo f).getIndex ≠ (s.fifo f).getIndex →
      s.takeTurn.1 = .port (consumerPort f) ∨ s.takeTurn.1 = .port .k ∨ (s.takeTurn.1 = .fsm ∧ s.fsm = .clear) ∨
        s.takeTurn.1 = .hardReset)

/-- R26, R30, R37, R163: through every step but the hardware reset the event trace only grows, and `link_state` changes
only in a turn of the control port; no step at all changes a parameter. -/
def Obligations.EventsGrowAndLinkIsControls : Prop :=
  ∀ s t : State, step s = .next t →
    t.params = s.params ∧
    (s.takeTurn.1 ≠ .hardReset →
      (∃ new, t.events = s.events ++ new) ∧ (t.link ≠ s.link → s.takeTurn.1 = .port .k))

/-- R102: bytes written by BULK_WRITE into an empty FIFO come out of BULK_READ, byte for byte and in order, once their
index has crossed, wherever in the storage the indices stand. -/
def Obligations.BulkRoundTrip : Prop :=
  ∀ (s : State) (f : FifoId) (payload : List Byte),
    s.FifoInv f → (s.fifo f).valid = true → (s.fifo f).Eager → (s.fifo f).putIndex = (s.fifo f).getIndex →
    s.params.syncEager = false → s.paused = false → s.uartUp = true →
    payload ≠ [] → payload.length < (s.fifo f).capacity.toNat →
    ∃ t₁ t₂ t₃ t₄, exec (.bulkWrite payload) { s with active := producerPort f } = .next t₁ ∧
      launchPut f t₁ = some t₂ ∧ landPut f t₂ = some t₃ ∧
      exec (.bulkRead (BitVec.ofNat 16 payload.length)) { t₃ with active := consumerPort f } = .next t₄ ∧
      (t₄.port (consumerPort f)).response =
        some { status := .ok, val := BitVec.ofNat 24 payload.length, rsp1 := none, payload := payload } ∧
      (t₄.fifo f).occTrue = 0#16

/-- R117: PEEK_W followed at once by MARK_P of the whole run, where the run is not empty, leaves `put_index` different from
`get_index` and from `get_seen`, `occ_p` at most `capacity - 1`, and the run within the true occupancy; where the run
is empty, PEEK_W opens no window and a MARK_P of any length ends `Contract`. -/
def Obligations.FullWindowPublishKeepsReservedSlot : Prop :=
  ∀ (s : State) (f : FifoId), s.FifoInv f → s.Admitted f .producer .move →
    (0 < (s.fifo f).writeRun →
      ∃ t u, exec .peekW s = .next t ∧ exec (.markP (BitVec.ofNat 16 (s.fifo f).writeRun)) t = .next u ∧
        u.port s.active = { s.port s.active with response := some (okWith 0#24) } ∧
        (u.fifo f).putIndex ≠ (u.fifo f).getSeen ∧ (u.fifo f).putIndex ≠ (u.fifo f).getIndex ∧
        (s.fifo f).writeRun ≤ (u.fifo f).occTrue.toNat ∧ (u.fifo f).occTrue.toNat ≤ (u.fifo f).occP.toNat ∧
        (u.fifo f).occP.toNat + 1 ≤ (u.fifo f).capacity.toNat) ∧
    ((s.fifo f).writeRun = 0 →
      ∃ t, exec .peekW s = .next t ∧ ∀ len : Index,
        exec (.markP len) t =
          .next ((t.setFifo f { t.fifo f with fault := true }).respond (errorAnswer (.markP len) .contract)))

/-- R40, R67, R228: no step is ever refused; from a state that meets the invariant the only fault is the read of an
unwritten storage byte, and only a consumer port's turn raises it. -/
def Obligations.StepNeverRefuses : Prop :=
  (∀ (s : State) (r : Refusal), step s ≠ .refused r) ∧
  ∀ (s : State) (e : Fault), s.Inv → step s = .fault e →
    e = .unwrittenByte ∧ ∃ f, s.takeTurn.1 = .port (consumerPort f)
end

