-- ==== Sys2Proof/Laws/State.lean ====
section
/-! SUPPORT. The small lemmas of the state: each field after each update (spec/10_state.md), so that no later proof
unfolds a record update. -/

namespace Sys2Proof.Machine

open Sys2Proof

/-! ## `setFifo` -/

@[simp] theorem State.fifo_setFifo_same (s : State) (f : FifoId) (x : Fifo) : (s.setFifo f x).fifo f = x := by
  cases f <;> rfl
theorem State.fifo_setFifo_ne (s : State) {f g : FifoId} (x : Fifo) (h : g ≠ f) :
    (s.setFifo f x).fifo g = s.fifo g := by
  cases f <;> cases g <;> first | rfl | exact absurd rfl h
@[simp] theorem State.setFifo_setFifo (s : State) (f : FifoId) (x y : Fifo) :
    (s.setFifo f x).setFifo f y = s.setFifo f y := by cases f <;> rfl
@[simp] theorem State.setFifo_self (s : State) (f : FifoId) : s.setFifo f (s.fifo f) = s := by cases f <;> rfl
@[simp] theorem State.port_setFifo (s : State) (f : FifoId) (x : Fifo) (p : PortId) :
    (s.setFifo f x).port p = s.port p := by cases f <;> cases p <;> rfl
@[simp] theorem State.depth_setFifo (s : State) (f g : FifoId) (x : Fifo) : (s.setFifo f x).depth g = s.depth g := by
  cases f <;> cases g <;> rfl
@[simp] theorem State.setFifo_fsm (s : State) (f : FifoId) (x : Fifo) : (s.setFifo f x).fsm = s.fsm := by
  cases f <;> rfl
@[simp] theorem State.setFifo_paused (s : State) (f : FifoId) (x : Fifo) : (s.setFifo f x).paused = s.paused := by
  cases f <;> rfl
@[simp] theorem State.setFifo_uartUp (s : State) (f : FifoId) (x : Fifo) : (s.setFifo f x).uartUp = s.uartUp := by
  cases f <;> rfl
@[simp] theorem State.setFifo_link (s : State) (f : FifoId) (x : Fifo) : (s.setFifo f x).link = s.link := by
  cases f <;> rfl
@[simp] theorem State.setFifo_reqCfg (s : State) (f : FifoId) (x : Fifo) : (s.setFifo f x).reqCfg = s.reqCfg := by
  cases f <;> rfl
@[simp] theorem State.setFifo_lineConfig (s : State) (f : FifoId) (x : Fifo) : (s.setFifo f x).lineConfig = s.lineConfig := by
  cases f <;> rfl
@[simp] theorem State.setFifo_cfgValid (s : State) (f : FifoId) (x : Fifo) : (s.setFifo f x).cfgValid = s.cfgValid := by
  cases f <;> rfl
@[simp] theorem State.setFifo_coerced (s : State) (f : FifoId) (x : Fifo) : (s.setFifo f x).coerced = s.coerced := by
  cases f <;> rfl
@[simp] theorem State.setFifo_pollInterval (s : State) (f : FifoId) (x : Fifo) : (s.setFifo f x).pollInterval = s.pollInterval := by
  cases f <;> rfl
@[simp] theorem State.setFifo_events (s : State) (f : FifoId) (x : Fifo) : (s.setFifo f x).events = s.events := by
  cases f <;> rfl
@[simp] theorem State.setFifo_reqWritten (s : State) (f : FifoId) (x : Fifo) : (s.setFifo f x).reqWritten = s.reqWritten := by
  cases f <;> rfl
@[simp] theorem State.setFifo_pollWritten (s : State) (f : FifoId) (x : Fifo) : (s.setFifo f x).pollWritten = s.pollWritten := by
  cases f <;> rfl
@[simp] theorem State.setFifo_params (s : State) (f : FifoId) (x : Fifo) : (s.setFifo f x).params = s.params := by
  cases f <;> rfl
@[simp] theorem State.setFifo_active (s : State) (f : FifoId) (x : Fifo) : (s.setFifo f x).active = s.active := by
  cases f <;> rfl
@[simp] theorem State.setFifo_turns (s : State) (f : FifoId) (x : Fifo) : (s.setFifo f x).turns = s.turns := by
  cases f <;> rfl
@[simp] theorem State.setFifo_freeTurns (s : State) (f : FifoId) (x : Fifo) : (s.setFifo f x).freeTurns = s.freeTurns := by
  cases f <;> rfl
@[simp] theorem State.setFifo_draws (s : State) (f : FifoId) (x : Fifo) : (s.setFifo f x).draws = s.draws := by
  cases f <;> rfl

/-! ## `setPort` -/

@[simp] theorem State.port_setPort_same (s : State) (p : PortId) (x : PortIO) : (s.setPort p x).port p = x := by
  cases p <;> rfl
theorem State.port_setPort_ne (s : State) {p q : PortId} (x : PortIO) (h : q ≠ p) :
    (s.setPort p x).port q = s.port q := by
  cases p <;> cases q <;> first | rfl | exact absurd rfl h
@[simp] theorem State.fifo_setPort (s : State) (p : PortId) (x : PortIO) (f : FifoId) :
    (s.setPort p x).fifo f = s.fifo f := by cases p <;> cases f <;> rfl
@[simp] theorem State.depth_setPort (s : State) (p : PortId) (x : PortIO) (g : FifoId) :
    (s.setPort p x).depth g = s.depth g := by cases p <;> cases g <;> rfl
@[simp] theorem State.setPort_fsm (s : State) (p : PortId) (x : PortIO) : (s.setPort p x).fsm = s.fsm := by
  cases p <;> rfl
@[simp] theorem State.setPort_paused (s : State) (p : PortId) (x : PortIO) : (s.setPort p x).paused = s.paused := by
  cases p <;> rfl
@[simp] theorem State.setPort_uartUp (s : State) (p : PortId) (x : PortIO) : (s.setPort p x).uartUp = s.uartUp := by
  cases p <;> rfl
@[simp] theorem State.setPort_link (s : State) (p : PortId) (x : PortIO) : (s.setPort p x).link = s.link := by
  cases p <;> rfl
@[simp] theorem State.setPort_reqCfg (s : State) (p : PortId) (x : PortIO) : (s.setPort p x).reqCfg = s.reqCfg := by
  cases p <;> rfl
@[simp] theorem State.setPort_lineConfig (s : State) (p : PortId) (x : PortIO) : (s.setPort p x).lineConfig = s.lineConfig := by
  cases p <;> rfl
@[simp] theorem State.setPort_cfgValid (s : State) (p : PortId) (x : PortIO) : (s.setPort p x).cfgValid = s.cfgValid := by
  cases p <;> rfl
@[simp] theorem State.setPort_coerced (s : State) (p : PortId) (x : PortIO) : (s.setPort p x).coerced = s.coerced := by
  cases p <;> rfl
@[simp] theorem State.setPort_pollInterval (s : State) (p : PortId) (x : PortIO) : (s.setPort p x).pollInterval = s.pollInterval := by
  cases p <;> rfl
@[simp] theorem State.setPort_events (s : State) (p : PortId) (x : PortIO) : (s.setPort p x).events = s.events := by
  cases p <;> rfl
@[simp] theorem State.setPort_reqWritten (s : State) (p : PortId) (x : PortIO) : (s.setPort p x).reqWritten = s.reqWritten := by
  cases p <;> rfl
@[simp] theorem State.setPort_pollWritten (s : State) (p : PortId) (x : PortIO) : (s.setPort p x).pollWritten = s.pollWritten := by
  cases p <;> rfl
@[simp] theorem State.setPort_params (s : State) (p : PortId) (x : PortIO) : (s.setPort p x).params = s.params := by
  cases p <;> rfl
@[simp] theorem State.setPort_active (s : State) (p : PortId) (x : PortIO) : (s.setPort p x).active = s.active := by
  cases p <;> rfl
@[simp] theorem State.setPort_turns (s : State) (p : PortId) (x : PortIO) : (s.setPort p x).turns = s.turns := by
  cases p <;> rfl
@[simp] theorem State.setPort_freeTurns (s : State) (p : PortId) (x : PortIO) : (s.setPort p x).freeTurns = s.freeTurns := by
  cases p <;> rfl
@[simp] theorem State.setPort_draws (s : State) (p : PortId) (x : PortIO) : (s.setPort p x).draws = s.draws := by
  cases p <;> rfl

/-! ## `respond` -/

@[simp] theorem State.fifo_respond (s : State) (r : Response) (f : FifoId) : (s.respond r).fifo f = s.fifo f :=
  State.fifo_setPort s _ _ f
@[simp] theorem State.depth_respond (s : State) (r : Response) (f : FifoId) : (s.respond r).depth f = s.depth f :=
  State.depth_setPort s _ _ f
@[simp] theorem State.respond_response (s : State) (r : Response) : ((s.respond r).port s.active).response = some r := by
  simp [State.respond]
/-- The response stands at the port that is active, under whichever name that port goes. -/
theorem State.respond_response_of (s : State) (r : Response) {p : PortId} (h : s.active = p) :
    ((s.respond r).port p).response = some r := by subst h; simp
@[simp] theorem State.respond_words (s : State) (r : Response) :
    ((s.respond r).port s.active).words = (s.port s.active).words := by simp [State.respond]
@[simp] theorem State.respond_bytes (s : State) (r : Response) :
    ((s.respond r).port s.active).bytes = (s.port s.active).bytes := by simp [State.respond]
theorem State.port_respond_ne (s : State) (r : Response) {q : PortId} (h : q ≠ s.active) :
    (s.respond r).port q = s.port q := State.port_setPort_ne s _ h
@[simp] theorem State.respond_fsm (s : State) (r : Response) : (s.respond r).fsm = s.fsm :=
  State.setPort_fsm s _ _
@[simp] theorem State.respond_paused (s : State) (r : Response) : (s.respond r).paused = s.paused :=
  State.setPort_paused s _ _
@[simp] theorem State.respond_uartUp (s : State) (r : Response) : (s.respond r).uartUp = s.uartUp :=
  State.setPort_uartUp s _ _
@[simp] theorem State.respond_link (s : State) (r : Response) : (s.respond r).link = s.link :=
  State.setPort_link s _ _
@[simp] theorem State.respond_reqCfg (s : State) (r : Response) : (s.respond r).reqCfg = s.reqCfg :=
  State.setPort_reqCfg s _ _
@[simp] theorem State.respond_lineConfig (s : State) (r : Response) : (s.respond r).lineConfig = s.lineConfig :=
  State.setPort_lineConfig s _ _
@[simp] theorem State.respond_cfgValid (s : State) (r : Response) : (s.respond r).cfgValid = s.cfgValid :=
  State.setPort_cfgValid s _ _
@[simp] theorem State.respond_coerced (s : State) (r : Response) : (s.respond r).coerced = s.coerced :=
  State.setPort_coerced s _ _
@[simp] theorem State.respond_pollInterval (s : State) (r : Response) : (s.respond r).pollInterval = s.pollInterval :=
  State.setPort_pollInterval s _ _
@[simp] theorem State.respond_events (s : State) (r : Response) : (s.respond r).events = s.events :=
  State.setPort_events s _ _
@[simp] theorem State.respond_reqWritten (s : State) (r : Response) : (s.respond r).reqWritten = s.reqWritten :=
  State.setPort_reqWritten s _ _
@[simp] theorem State.respond_pollWritten (s : State) (r : Response) : (s.respond r).pollWritten = s.pollWritten :=
  State.setPort_pollWritten s _ _
@[simp] theorem State.respond_params (s : State) (r : Response) : (s.respond r).params = s.params :=
  State.setPort_params s _ _
@[simp] theorem State.respond_active (s : State) (r : Response) : (s.respond r).active = s.active :=
  State.setPort_active s _ _
@[simp] theorem State.respond_turns (s : State) (r : Response) : (s.respond r).turns = s.turns :=
  State.setPort_turns s _ _
@[simp] theorem State.respond_freeTurns (s : State) (r : Response) : (s.respond r).freeTurns = s.freeTurns :=
  State.setPort_freeTurns s _ _
@[simp] theorem State.respond_draws (s : State) (r : Response) : (s.respond r).draws = s.draws :=
  State.setPort_draws s _ _

/-! ## `emit` -/

@[simp] theorem State.emit_events (s : State) (e : Event) : (s.emit e).events = s.events ++ [e] := rfl
@[simp] theorem State.fifo_emit (s : State) (e : Event) (f : FifoId) : (s.emit e).fifo f = s.fifo f := by cases f <;> rfl
@[simp] theorem State.port_emit (s : State) (e : Event) (p : PortId) : (s.emit e).port p = s.port p := by cases p <;> rfl
@[simp] theorem State.emit_fsm (s : State) (e : Event) : (s.emit e).fsm = s.fsm := rfl
@[simp] theorem State.emit_paused (s : State) (e : Event) : (s.emit e).paused = s.paused := rfl
@[simp] theorem State.emit_uartUp (s : State) (e : Event) : (s.emit e).uartUp = s.uartUp := rfl
@[simp] theorem State.emit_link (s : State) (e : Event) : (s.emit e).link = s.link := rfl
@[simp] theorem State.emit_reqCfg (s : State) (e : Event) : (s.emit e).reqCfg = s.reqCfg := rfl
@[simp] theorem State.emit_lineConfig (s : State) (e : Event) : (s.emit e).lineConfig = s.lineConfig := rfl
@[simp] theorem State.emit_cfgValid (s : State) (e : Event) : (s.emit e).cfgValid = s.cfgValid := rfl
@[simp] theorem State.emit_coerced (s : State) (e : Event) : (s.emit e).coerced = s.coerced := rfl
@[simp] theorem State.emit_pollInterval (s : State) (e : Event) : (s.emit e).pollInterval = s.pollInterval := rfl
@[simp] theorem State.emit_reqWritten (s : State) (e : Event) : (s.emit e).reqWritten = s.reqWritten := rfl
@[simp] theorem State.emit_pollWritten (s : State) (e : Event) : (s.emit e).pollWritten = s.pollWritten := rfl
@[simp] theorem State.emit_params (s : State) (e : Event) : (s.emit e).params = s.params := rfl
@[simp] theorem State.emit_active (s : State) (e : Event) : (s.emit e).active = s.active := rfl
@[simp] theorem State.emit_turns (s : State) (e : Event) : (s.emit e).turns = s.turns := rfl
@[simp] theorem State.emit_freeTurns (s : State) (e : Event) : (s.emit e).freeTurns = s.freeTurns := rfl
@[simp] theorem State.emit_draws (s : State) (e : Event) : (s.emit e).draws = s.draws := rfl

/-! ## Index moves and windows: what one of them leaves of its FIFO -/

@[simp] theorem State.movePut_fifo (s : State) (f : FifoId) (n : Index) :
    (s.movePut f n).fifo f =
      { s.fifo f with
        putIndex := (s.fifo f).advance (s.fifo f).putIndex n
        putSeen := if s.params.syncEager then (s.fifo f).advance (s.fifo f).putIndex n else (s.fifo f).putSeen } :=
  State.fifo_setFifo_same s f _
@[simp] theorem State.moveGet_fifo (s : State) (f : FifoId) (n : Index) :
    (s.moveGet f n).fifo f =
      { s.fifo f with
        getIndex := (s.fifo f).advance (s.fifo f).getIndex n
        getSeen := if s.params.syncEager then (s.fifo f).advance (s.fifo f).getIndex n else (s.fifo f).getSeen } :=
  State.fifo_setFifo_same s f _
@[simp] theorem State.setWrLease_fifo (s : State) (f : FifoId) (l : Option Lease) :
    (s.setWrLease f l).fifo f = { s.fifo f with wrLease := l } := State.fifo_setFifo_same s f _
@[simp] theorem State.setRdLease_fifo (s : State) (f : FifoId) (l : Option Lease) :
    (s.setRdLease f l).fifo f = { s.fifo f with rdLease := l } := State.fifo_setFifo_same s f _
theorem State.movePut_fifo_ne (s : State) {f g : FifoId} (n : Index) (h : g ≠ f) :
    (s.movePut f n).fifo g = s.fifo g := State.fifo_setFifo_ne s _ h
@[simp] theorem State.movePut_port (s : State) (f : FifoId) (n : Index) (p : PortId) :
    (s.movePut f n).port p = s.port p := State.port_setFifo s f _ p
@[simp] theorem State.movePut_fsm (s : State) (f : FifoId) (n : Index) : (s.movePut f n).fsm = s.fsm :=
  State.setFifo_fsm s f _
@[simp] theorem State.movePut_paused (s : State) (f : FifoId) (n : Index) : (s.movePut f n).paused = s.paused :=
  State.setFifo_paused s f _
@[simp] theorem State.movePut_uartUp (s : State) (f : FifoId) (n : Index) : (s.movePut f n).uartUp = s.uartUp :=
  State.setFifo_uartUp s f _
@[simp] theorem State.movePut_link (s : State) (f : FifoId) (n : Index) : (s.movePut f n).link = s.link :=
  State.setFifo_link s f _
@[simp] theorem State.movePut_reqCfg (s : State) (f : FifoId) (n : Index) : (s.movePut f n).reqCfg = s.reqCfg :=
  State.setFifo_reqCfg s f _
@[simp] theorem State.movePut_lineConfig (s : State) (f : FifoId) (n : Index) : (s.movePut f n).lineConfig = s.lineConfig :=
  State.setFifo_lineConfig s f _
@[simp] theorem State.movePut_cfgValid (s : State) (f : FifoId) (n : Index) : (s.movePut f n).cfgValid = s.cfgValid :=
  State.setFifo_cfgValid s f _
@[simp] theorem State.movePut_coerced (s : State) (f : FifoId) (n : Index) : (s.movePut f n).coerced = s.coerced :=
  State.setFifo_coerced s f _
@[simp] theorem State.movePut_pollInterval (s : State) (f : FifoId) (n : Index) : (s.movePut f n).pollInterval = s.pollInterval :=
  State.setFifo_pollInterval s f _
@[simp] theorem State.movePut_events (s : State) (f : FifoId) (n : Index) : (s.movePut f n).events = s.events :=
  State.setFifo_events s f _
@[simp] theorem State.movePut_reqWritten (s : State) (f : FifoId) (n : Index) : (s.movePut f n).reqWritten = s.reqWritten :=
  State.setFifo_reqWritten s f _
@[simp] theorem State.movePut_pollWritten (s : State) (f : FifoId) (n : Index) : (s.movePut f n).pollWritten = s.pollWritten :=
  State.setFifo_pollWritten s f _
@[simp] theorem State.movePut_params (s : State) (f : FifoId) (n : Index) : (s.movePut f n).params = s.params :=
  State.setFifo_params s f _
@[simp] theorem State.movePut_active (s : State) (f : FifoId) (n : Index) : (s.movePut f n).active = s.active :=
  State.setFifo_active s f _
@[simp] theorem State.movePut_turns (s : State) (f : FifoId) (n : Index) : (s.movePut f n).turns = s.turns :=
  State.setFifo_turns s f _
@[simp] theorem State.movePut_freeTurns (s : State) (f : FifoId) (n : Index) : (s.movePut f n).freeTurns = s.freeTurns :=
  State.setFifo_freeTurns s f _
@[simp] theorem State.movePut_draws (s : State) (f : FifoId) (n : Index) : (s.movePut f n).draws = s.draws :=
  State.setFifo_draws s f _
theorem State.moveGet_fifo_ne (s : State) {f g : FifoId} (n : Index) (h : g ≠ f) :
    (s.moveGet f n).fifo g = s.fifo g := State.fifo_setFifo_ne s _ h
@[simp] theorem State.moveGet_port (s : State) (f : FifoId) (n : Index) (p : PortId) :
    (s.moveGet f n).port p = s.port p := State.port_setFifo s f _ p
@[simp] theorem State.moveGet_fsm (s : State) (f : FifoId) (n : Index) : (s.moveGet f n).fsm = s.fsm :=
  State.setFifo_fsm s f _
@[simp] theorem State.moveGet_paused (s : State) (f : FifoId) (n : Index) : (s.moveGet f n).paused = s.paused :=
  State.setFifo_paused s f _
@[simp] theorem State.moveGet_uartUp (s : State) (f : FifoId) (n : Index) : (s.moveGet f n).uartUp = s.uartUp :=
  State.setFifo_uartUp s f _
@[simp] theorem State.moveGet_link (s : State) (f : FifoId) (n : Index) : (s.moveGet f n).link = s.link :=
  State.setFifo_link s f _
@[simp] theorem State.moveGet_reqCfg (s : State) (f : FifoId) (n : Index) : (s.moveGet f n).reqCfg = s.reqCfg :=
  State.setFifo_reqCfg s f _
@[simp] theorem State.moveGet_lineConfig (s : State) (f : FifoId) (n : Index) : (s.moveGet f n).lineConfig = s.lineConfig :=
  State.setFifo_lineConfig s f _
@[simp] theorem State.moveGet_cfgValid (s : State) (f : FifoId) (n : Index) : (s.moveGet f n).cfgValid = s.cfgValid :=
  State.setFifo_cfgValid s f _
@[simp] theorem State.moveGet_coerced (s : State) (f : FifoId) (n : Index) : (s.moveGet f n).coerced = s.coerced :=
  State.setFifo_coerced s f _
@[simp] theorem State.moveGet_pollInterval (s : State) (f : FifoId) (n : Index) : (s.moveGet f n).pollInterval = s.pollInterval :=
  State.setFifo_pollInterval s f _
@[simp] theorem State.moveGet_events (s : State) (f : FifoId) (n : Index) : (s.moveGet f n).events = s.events :=
  State.setFifo_events s f _
@[simp] theorem State.moveGet_reqWritten (s : State) (f : FifoId) (n : Index) : (s.moveGet f n).reqWritten = s.reqWritten :=
  State.setFifo_reqWritten s f _
@[simp] theorem State.moveGet_pollWritten (s : State) (f : FifoId) (n : Index) : (s.moveGet f n).pollWritten = s.pollWritten :=
  State.setFifo_pollWritten s f _
@[simp] theorem State.moveGet_params (s : State) (f : FifoId) (n : Index) : (s.moveGet f n).params = s.params :=
  State.setFifo_params s f _
@[simp] theorem State.moveGet_active (s : State) (f : FifoId) (n : Index) : (s.moveGet f n).active = s.active :=
  State.setFifo_active s f _
@[simp] theorem State.moveGet_turns (s : State) (f : FifoId) (n : Index) : (s.moveGet f n).turns = s.turns :=
  State.setFifo_turns s f _
@[simp] theorem State.moveGet_freeTurns (s : State) (f : FifoId) (n : Index) : (s.moveGet f n).freeTurns = s.freeTurns :=
  State.setFifo_freeTurns s f _
@[simp] theorem State.moveGet_draws (s : State) (f : FifoId) (n : Index) : (s.moveGet f n).draws = s.draws :=
  State.setFifo_draws s f _
theorem State.setWrLease_fifo_ne (s : State) {f g : FifoId} (l : Option Lease) (h : g ≠ f) :
    (s.setWrLease f l).fifo g = s.fifo g := State.fifo_setFifo_ne s _ h
@[simp] theorem State.setWrLease_port (s : State) (f : FifoId) (l : Option Lease) (p : PortId) :
    (s.setWrLease f l).port p = s.port p := State.port_setFifo s f _ p
@[simp] theorem State.setWrLease_fsm (s : State) (f : FifoId) (l : Option Lease) : (s.setWrLease f l).fsm = s.fsm :=
  State.setFifo_fsm s f _
@[simp] theorem State.setWrLease_paused (s : State) (f : FifoId) (l : Option Lease) : (s.setWrLease f l).paused = s.paused :=
  State.setFifo_paused s f _
@[simp] theorem State.setWrLease_uartUp (s : State) (f : FifoId) (l : Option Lease) : (s.setWrLease f l).uartUp = s.uartUp :=
  State.setFifo_uartUp s f _
@[simp] theorem State.setWrLease_link (s : State) (f : FifoId) (l : Option Lease) : (s.setWrLease f l).link = s.link :=
  State.setFifo_link s f _
@[simp] theorem State.setWrLease_reqCfg (s : State) (f : FifoId) (l : Option Lease) : (s.setWrLease f l).reqCfg = s.reqCfg :=
  State.setFifo_reqCfg s f _
@[simp] theorem State.setWrLease_lineConfig (s : State) (f : FifoId) (l : Option Lease) : (s.setWrLease f l).lineConfig = s.lineConfig :=
  State.setFifo_lineConfig s f _
@[simp] theorem State.setWrLease_cfgValid (s : State) (f : FifoId) (l : Option Lease) : (s.setWrLease f l).cfgValid = s.cfgValid :=
  State.setFifo_cfgValid s f _
@[simp] theorem State.setWrLease_coerced (s : State) (f : FifoId) (l : Option Lease) : (s.setWrLease f l).coerced = s.coerced :=
  State.setFifo_coerced s f _
@[simp] theorem State.setWrLease_pollInterval (s : State) (f : FifoId) (l : Option Lease) : (s.setWrLease f l).pollInterval = s.pollInterval :=
  State.setFifo_pollInterval s f _
@[simp] theorem State.setWrLease_events (s : State) (f : FifoId) (l : Option Lease) : (s.setWrLease f l).events = s.events :=
  State.setFifo_events s f _
@[simp] theorem State.setWrLease_reqWritten (s : State) (f : FifoId) (l : Option Lease) : (s.setWrLease f l).reqWritten = s.reqWritten :=
  State.setFifo_reqWritten s f _
@[simp] theorem State.setWrLease_pollWritten (s : State) (f : FifoId) (l : Option Lease) : (s.setWrLease f l).pollWritten = s.pollWritten :=
  State.setFifo_pollWritten s f _
@[simp] theorem State.setWrLease_params (s : State) (f : FifoId) (l : Option Lease) : (s.setWrLease f l).params = s.params :=
  State.setFifo_params s f _
@[simp] theorem State.setWrLease_active (s : State) (f : FifoId) (l : Option Lease) : (s.setWrLease f l).active = s.active :=
  State.setFifo_active s f _
@[simp] theorem State.setWrLease_turns (s : State) (f : FifoId) (l : Option Lease) : (s.setWrLease f l).turns = s.turns :=
  State.setFifo_turns s f _
@[simp] theorem State.setWrLease_freeTurns (s : State) (f : FifoId) (l : Option Lease) : (s.setWrLease f l).freeTurns = s.freeTurns :=
  State.setFifo_freeTurns s f _
@[simp] theorem State.setWrLease_draws (s : State) (f : FifoId) (l : Option Lease) : (s.setWrLease f l).draws = s.draws :=
  State.setFifo_draws s f _
theorem State.setRdLease_fifo_ne (s : State) {f g : FifoId} (l : Option Lease) (h : g ≠ f) :
    (s.setRdLease f l).fifo g = s.fifo g := State.fifo_setFifo_ne s _ h
@[simp] theorem State.setRdLease_port (s : State) (f : FifoId) (l : Option Lease) (p : PortId) :
    (s.setRdLease f l).port p = s.port p := State.port_setFifo s f _ p
@[simp] theorem State.setRdLease_fsm (s : State) (f : FifoId) (l : Option Lease) : (s.setRdLease f l).fsm = s.fsm :=
  State.setFifo_fsm s f _
@[simp] theorem State.setRdLease_paused (s : State) (f : FifoId) (l : Option Lease) : (s.setRdLease f l).paused = s.paused :=
  State.setFifo_paused s f _
@[simp] theorem State.setRdLease_uartUp (s : State) (f : FifoId) (l : Option Lease) : (s.setRdLease f l).uartUp = s.uartUp :=
  State.setFifo_uartUp s f _
@[simp] theorem State.setRdLease_link (s : State) (f : FifoId) (l : Option Lease) : (s.setRdLease f l).link = s.link :=
  State.setFifo_link s f _
@[simp] theorem State.setRdLease_reqCfg (s : State) (f : FifoId) (l : Option Lease) : (s.setRdLease f l).reqCfg = s.reqCfg :=
  State.setFifo_reqCfg s f _
@[simp] theorem State.setRdLease_lineConfig (s : State) (f : FifoId) (l : Option Lease) : (s.setRdLease f l).lineConfig = s.lineConfig :=
  State.setFifo_lineConfig s f _
@[simp] theorem State.setRdLease_cfgValid (s : State) (f : FifoId) (l : Option Lease) : (s.setRdLease f l).cfgValid = s.cfgValid :=
  State.setFifo_cfgValid s f _
@[simp] theorem State.setRdLease_coerced (s : State) (f : FifoId) (l : Option Lease) : (s.setRdLease f l).coerced = s.coerced :=
  State.setFifo_coerced s f _
@[simp] theorem State.setRdLease_pollInterval (s : State) (f : FifoId) (l : Option Lease) : (s.setRdLease f l).pollInterval = s.pollInterval :=
  State.setFifo_pollInterval s f _
@[simp] theorem State.setRdLease_events (s : State) (f : FifoId) (l : Option Lease) : (s.setRdLease f l).events = s.events :=
  State.setFifo_events s f _
@[simp] theorem State.setRdLease_reqWritten (s : State) (f : FifoId) (l : Option Lease) : (s.setRdLease f l).reqWritten = s.reqWritten :=
  State.setFifo_reqWritten s f _
@[simp] theorem State.setRdLease_pollWritten (s : State) (f : FifoId) (l : Option Lease) : (s.setRdLease f l).pollWritten = s.pollWritten :=
  State.setFifo_pollWritten s f _
@[simp] theorem State.setRdLease_params (s : State) (f : FifoId) (l : Option Lease) : (s.setRdLease f l).params = s.params :=
  State.setFifo_params s f _
@[simp] theorem State.setRdLease_active (s : State) (f : FifoId) (l : Option Lease) : (s.setRdLease f l).active = s.active :=
  State.setFifo_active s f _
@[simp] theorem State.setRdLease_turns (s : State) (f : FifoId) (l : Option Lease) : (s.setRdLease f l).turns = s.turns :=
  State.setFifo_turns s f _
@[simp] theorem State.setRdLease_freeTurns (s : State) (f : FifoId) (l : Option Lease) : (s.setRdLease f l).freeTurns = s.freeTurns :=
  State.setFifo_freeTurns s f _
@[simp] theorem State.setRdLease_draws (s : State) (f : FifoId) (l : Option Lease) : (s.setRdLease f l).draws = s.draws :=
  State.setFifo_draws s f _

/-! ## `accept` -/

@[simp] theorem State.fifo_accept (s : State) (p : PortId) (ws : List Word) (bs : List Byte) (f : FifoId) :
    (s.accept p ws bs).fifo f = s.fifo f := by cases p <;> cases f <;> rfl
@[simp] theorem State.accept_active (s : State) (p : PortId) (ws : List Word) (bs : List Byte) :
    (s.accept p ws bs).active = p := by cases p <;> rfl
@[simp] theorem State.accept_port (s : State) (p : PortId) (ws : List Word) (bs : List Byte) :
    (s.accept p ws bs).port p = { s.port p with words := ws, bytes := bs } := by cases p <;> rfl
theorem State.accept_port_ne (s : State) {p q : PortId} (ws : List Word) (bs : List Byte) (h : q ≠ p) :
    (s.accept p ws bs).port q = s.port q := by
  cases p <;> cases q <;> first | rfl | exact absurd rfl h
@[simp] theorem State.accept_fsm (s : State) (p : PortId) (ws : List Word) (bs : List Byte) :
    (s.accept p ws bs).fsm = s.fsm := by cases p <;> rfl
@[simp] theorem State.accept_paused (s : State) (p : PortId) (ws : List Word) (bs : List Byte) :
    (s.accept p ws bs).paused = s.paused := by cases p <;> rfl
@[simp] theorem State.accept_uartUp (s : State) (p : PortId) (ws : List Word) (bs : List Byte) :
    (s.accept p ws bs).uartUp = s.uartUp := by cases p <;> rfl
@[simp] theorem State.accept_link (s : State) (p : PortId) (ws : List Word) (bs : List Byte) :
    (s.accept p ws bs).link = s.link := by cases p <;> rfl
@[simp] theorem State.accept_reqCfg (s : State) (p : PortId) (ws : List Word) (bs : List Byte) :
    (s.accept p ws bs).reqCfg = s.reqCfg := by cases p <;> rfl
@[simp] theorem State.accept_lineConfig (s : State) (p : PortId) (ws : List Word) (bs : List Byte) :
    (s.accept p ws bs).lineConfig = s.lineConfig := by cases p <;> rfl
@[simp] theorem State.accept_cfgValid (s : State) (p : PortId) (ws : List Word) (bs : List Byte) :
    (s.accept p ws bs).cfgValid = s.cfgValid := by cases p <;> rfl
@[simp] theorem State.accept_coerced (s : State) (p : PortId) (ws : List Word) (bs : List Byte) :
    (s.accept p ws bs).coerced = s.coerced := by cases p <;> rfl
@[simp] theorem State.accept_pollInterval (s : State) (p : PortId) (ws : List Word) (bs : List Byte) :
    (s.accept p ws bs).pollInterval = s.pollInterval := by cases p <;> rfl
@[simp] theorem State.accept_events (s : State) (p : PortId) (ws : List Word) (bs : List Byte) :
    (s.accept p ws bs).events = s.events := by cases p <;> rfl
@[simp] theorem State.accept_reqWritten (s : State) (p : PortId) (ws : List Word) (bs : List Byte) :
    (s.accept p ws bs).reqWritten = s.reqWritten := by cases p <;> rfl
@[simp] theorem State.accept_pollWritten (s : State) (p : PortId) (ws : List Word) (bs : List Byte) :
    (s.accept p ws bs).pollWritten = s.pollWritten := by cases p <;> rfl
@[simp] theorem State.accept_params (s : State) (p : PortId) (ws : List Word) (bs : List Byte) :
    (s.accept p ws bs).params = s.params := by cases p <;> rfl
@[simp] theorem State.accept_turns (s : State) (p : PortId) (ws : List Word) (bs : List Byte) :
    (s.accept p ws bs).turns = s.turns := by cases p <;> rfl
@[simp] theorem State.accept_freeTurns (s : State) (p : PortId) (ws : List Word) (bs : List Byte) :
    (s.accept p ws bs).freeTurns = s.freeTurns := by cases p <;> rfl
@[simp] theorem State.accept_draws (s : State) (p : PortId) (ws : List Word) (bs : List Byte) :
    (s.accept p ws bs).draws = s.draws := by cases p <;> rfl

end Sys2Proof.Machine
end

