-- ==== Sys2Proof/Laws/Ops.lean ====
section
/-! SUPPORT. One lemma for each shared operation that says once everything it can do: index arithmetic (R71), storage
accesses (R7), the common checks (R194), and what a turn that is no command leaves alone. Later proofs cite these and do
not unfold the operation. -/

namespace Sys2Proof.Machine

open Sys2Proof

/-! ## Index arithmetic -/

/-- R11, R71: under a mask of `2 ^ k - 1` the AND is the remainder. -/
theorem and_mask_toNat (i m : Index) {k : Nat} (h : m.toNat + 1 = 2 ^ k) : (i &&& m).toNat = i.toNat % 2 ^ k := by
  have hm : m.toNat = 2 ^ k - 1 := by omega
  rw [BitVec.toNat_and, hm, Nat.and_two_pow_sub_one_eq_mod]

/-- The AND never exceeds the mask. -/
theorem and_mask_le (i m : Index) : (i &&& m).toNat ≤ m.toNat := by
  rw [BitVec.toNat_and]; exact Nat.and_le_right

/-- R11: the capacity of a constructed instance is a power of two that divides 2^16, and the mask is one less. -/
theorem Fifo.Shape.capacity_pow {x : Fifo} {d : Nat} (h : x.Shape d) (hv : x.valid = true) :
    ∃ k, k ≤ 16 ∧ x.capacity.toNat = 2 ^ k ∧ x.mask.toNat + 1 = 2 ^ k := by
  obtain ⟨k, hk, hc⟩ := h.powerOfTwo hv
  exact ⟨k, hk, hc, by rw [h.maskIs hv, hc]⟩

/-- R71 (a): a masked 16-bit number is its remainder by the capacity. -/
theorem Fifo.Shape.addr_mod {x : Fifo} {d : Nat} (h : x.Shape d) (hv : x.valid = true) (i : Index) :
    x.addr i = i.toNat % x.capacity.toNat := by
  obtain ⟨k, -, hc, hm⟩ := h.capacity_pow hv
  rw [hc]; exact and_mask_toNat i x.mask hm

/-- R13, R71 (a): an advance is addition mod the capacity. -/
theorem Fifo.Shape.advance_mod {x : Fifo} {d : Nat} (h : x.Shape d) (hv : x.valid = true) (i n : Index) :
    (x.advance i n).toNat = (i.toNat + n.toNat) % x.capacity.toNat := by
  obtain ⟨k, hk, hc, hm⟩ := h.capacity_pow hv
  unfold Fifo.advance
  rw [hc, and_mask_toNat (i + n) x.mask hm, BitVec.toNat_add]
  exact Nat.mod_mod_of_dvd _ (Nat.pow_dvd_pow 2 hk)

/-- R40: a masked address of a constructed instance exists. -/
theorem Fifo.Shape.addr_lt {x : Fifo} {d : Nat} (h : x.Shape d) (hv : x.valid = true) (i : Index) : x.addr i < d := by
  have h1 := and_mask_le i x.mask
  have h2 := h.maskIs hv
  have h3 := h.capacityFits
  unfold Fifo.addr
  omega

/-! ## Storage accesses -/

/-- R7: when a load answers a byte. -/
theorem State.load_ok_iff (s : State) (f : FifoId) (a : Nat) (b : Byte) :
    s.load f a = .ok b ↔ a < s.depth f ∧ Memory.read (s.fifo f).storage a = some b := by
  unfold State.load
  split
  · simp; omega
  · rename_i h
    split <;> rename_i hr <;> simp [hr]
    omega

/-- R228: a load of a byte nothing has written, at an address that exists. -/
theorem State.load_unwritten (s : State) (f : FifoId) (a : Nat) (h : a < s.depth f)
    (hr : Memory.read (s.fifo f).storage a = none) : s.load f a = .error .unwrittenByte := by
  unfold State.load
  rw [if_neg (by omega), hr]

/-- R7: when a store succeeds, and what it leaves. -/
theorem State.store_ok_iff (s t : State) (f : FifoId) (a : Nat) (b : Byte) :
    s.store f a b = .ok t ↔
      a < s.depth f ∧ t = s.setFifo f { s.fifo f with storage := Memory.write (s.fifo f).storage a b } := by
  unfold State.store
  split
  · simp; omega
  · simp; constructor
    · rintro rfl; exact ⟨by omega, rfl⟩
    · rintro ⟨-, rfl⟩; rfl

/-- The k-th byte from the next index on is the (k+1)-th from this one on (R41). -/
theorem index_succ_add (i : Index) (k : Nat) : i + 1#16 + BitVec.ofNat 16 k = i + BitVec.ofNat 16 (k + 1) := by
  apply BitVec.eq_of_toNat_eq
  simp only [BitVec.toNat_add, BitVec.toNat_ofNat]
  omega

@[simp] theorem index_add_zero (i : Index) : i + BitVec.ofNat 16 0 = i := by simp

/-- R7 `MemWrite`, everything a success can be: only storage changes, the canonical form stays, only the addressed slots
change, and the only new cells are at addressed slots. -/
theorem State.memWrite_frame {f : FifoId} {bytes : List Byte} :
    ∀ {s t : State} {i : Index}, s.memWrite f i bytes = .ok t →
      ∃ m, t = s.setFifo f { s.fifo f with storage := m } ∧
        (Memory.wf (s.fifo f).storage = true → Memory.wf m = true) ∧
        (∀ a, (∀ k < bytes.length, a ≠ (s.fifo f).addr (i + BitVec.ofNat 16 k)) →
          Memory.read m a = Memory.read (s.fifo f).storage a) ∧
        (∀ c ∈ m, c ∈ (s.fifo f).storage ∨ ∃ k < bytes.length, c.1 = (s.fifo f).addr (i + BitVec.ofNat 16 k)) := by
  induction bytes with
  | nil =>
    intro s t i h
    simp only [State.memWrite, Except.ok.injEq] at h
    subst h
    exact ⟨(s.fifo f).storage, (State.setFifo_self s f).symm, id, fun _ _ => rfl, fun c hc => .inl hc⟩
  | cons b rest ih =>
    intro s t i h
    unfold State.memWrite at h
    split at h
    · exact absurd h (by simp)
    · rename_i u hu
      obtain ⟨-, rfl⟩ := (State.store_ok_iff s u f _ b).1 hu
      obtain ⟨m, rfl, hwf, hread, hmem⟩ := ih h
      simp only [State.fifo_setFifo_same, State.setFifo_setFifo] at hwf hread hmem ⊢
      have haddr : ∀ j : Index, ({ s.fifo f with
          storage := Memory.write (s.fifo f).storage ((s.fifo f).addr i) b } : Fifo).addr j = (s.fifo f).addr j :=
        fun _ => rfl
      refine ⟨m, rfl, fun hw => hwf (Memory.wf_write _ _ hw), fun a ha => ?_, fun c hc => ?_⟩
      · rw [hread a fun k hk => ?_]
        · refine Memory.read_write_ne _ _ ?_
          simpa using ha 0 (by simp)
        · rw [haddr, index_succ_add]
          exact ha (k + 1) (by simpa using hk)
      · rcases hmem c hc with hc | ⟨k, hk, hc⟩
        · rcases Memory.mem_write hc with rfl | hc
          · exact .inr ⟨0, by simp, by simp⟩
          · exact .inl hc
        · rw [haddr, index_succ_add] at hc
          exact .inr ⟨k + 1, by simpa using hk, hc⟩

/-- R7 `MemWrite` succeeds when every addressed slot exists. -/
theorem State.memWrite_total {f : FifoId} {bytes : List Byte} :
    ∀ {s : State} {i : Index}, (∀ j, (s.fifo f).addr j < s.depth f) → ∃ t, s.memWrite f i bytes = .ok t := by
  induction bytes with
  | nil => intro s i _; exact ⟨s, rfl⟩
  | cons b rest ih =>
    intro s i h
    unfold State.memWrite
    have hs : s.store f ((s.fifo f).addr i) b = .ok _ := (State.store_ok_iff s _ f _ b).2 ⟨h i, rfl⟩
    rw [hs]
    refine ih fun j => ?_
    simpa [Fifo.addr] using h j

/-- R7 `MemRead`, everything a success can be: `n` bytes, the k-th from the k-th addressed slot. -/
theorem State.memRead_ok {s : State} {f : FifoId} :
    ∀ {n : Nat} {i : Index} {bytes : List Byte}, s.memRead f i n = .ok bytes →
      bytes.length = n ∧
        ∀ k < n, bytes[k]? = Memory.read (s.fifo f).storage ((s.fifo f).addr (i + BitVec.ofNat 16 k)) := by
  intro n
  induction n with
  | zero =>
    intro i bytes h
    simp only [State.memRead, Except.ok.injEq] at h
    subst h; simp
  | succ n ih =>
    intro i bytes h
    unfold State.memRead at h
    split at h
    · exact absurd h (by simp)
    · rename_i b hb
      split at h
      · exact absurd h (by simp)
      · rename_i rest hrest
        simp only [Except.ok.injEq] at h
        subst h
        obtain ⟨hl, hk⟩ := ih hrest
        refine ⟨by simp [hl], fun k hkn => ?_⟩
        cases k with
        | zero => simp [((State.load_ok_iff s f _ b).1 hb).2]
        | succ k =>
          rw [List.getElem?_cons_succ, hk k (by omega), index_succ_add]

/-- R7 `MemRead` succeeds when every addressed slot exists and holds a byte. -/
theorem State.memRead_total {s : State} {f : FifoId} (hd : ∀ j, (s.fifo f).addr j < s.depth f) :
    ∀ {n : Nat} {i : Index},
      (∀ k < n, Memory.read (s.fifo f).storage ((s.fifo f).addr (i + BitVec.ofNat 16 k)) ≠ none) →
      ∃ bytes, s.memRead f i n = .ok bytes := by
  intro n
  induction n with
  | zero => intro i _; exact ⟨[], rfl⟩
  | succ n ih =>
    intro i h
    have h0 : Memory.read (s.fifo f).storage ((s.fifo f).addr i) ≠ none := by simpa using h 0 (by omega)
    obtain ⟨b, hb⟩ := Option.ne_none_iff_exists'.1 h0
    obtain ⟨rest, hrest⟩ := ih (i := i + 1#16) fun k hk => by
      rw [index_succ_add]; exact h (k + 1) (by omega)
    exact ⟨b :: rest, by
      unfold State.memRead
      rw [(State.load_ok_iff s f _ b).2 ⟨hd i, hb⟩, hrest]⟩

/-- R130: a comparison that reaches an answer answers whether every byte of the pattern is the byte of its slot. -/
theorem State.matchAt_ok {s : State} {f : FifoId} :
    ∀ {pattern : List Byte} {i : Index} {r : Bool}, s.matchAt f i pattern = .ok r →
      (r = true ↔ ∀ k < pattern.length,
        Memory.read (s.fifo f).storage ((s.fifo f).addr (i + BitVec.ofNat 16 k)) = pattern[k]?) := by
  intro pattern
  induction pattern with
  | nil => intro i r h; simp only [State.matchAt, Except.ok.injEq] at h; subst h; simp
  | cons b rest ih =>
    intro i r h
    unfold State.matchAt at h
    split at h
    · exact absurd h (by simp)
    · rename_i v hv
      have hr := ((State.load_ok_iff s f _ v).1 hv).2
      split at h
      · rename_i hvb
        subst hvb
        rw [ih h]
        constructor
        · intro hk k hkl
          cases k with
          | zero => simpa using hr
          | succ k =>
            rw [List.getElem?_cons_succ, ← index_succ_add]
            exact hk k (by simpa using hkl)
        · intro hk k hkl
          have := hk (k + 1) (by simpa using hkl)
          rwa [List.getElem?_cons_succ, ← index_succ_add] at this
      · rename_i hvb
        simp only [Except.ok.injEq] at h
        subst h
        constructor
        · intro hc; exact absurd hc (by simp)
        · intro hk
          have h0 := hk 0 (by simp)
          rw [index_add_zero, hr] at h0
          exact absurd (by simpa using h0) hvb

/-- R130: a comparison reaches an answer when every slot exists and every compared slot holds a byte. -/
theorem State.matchAt_total {s : State} {f : FifoId} (hd : ∀ j, (s.fifo f).addr j < s.depth f) :
    ∀ {pattern : List Byte} {i : Index},
      (∀ k < pattern.length, Memory.read (s.fifo f).storage ((s.fifo f).addr (i + BitVec.ofNat 16 k)) ≠ none) →
      ∃ r, s.matchAt f i pattern = .ok r := by
  intro pattern
  induction pattern with
  | nil => intro i _; exact ⟨true, rfl⟩
  | cons b rest ih =>
    intro i h
    have h0 : Memory.read (s.fifo f).storage ((s.fifo f).addr i) ≠ none := by simpa using h 0 (by simp)
    obtain ⟨v, hv⟩ := Option.ne_none_iff_exists'.1 h0
    unfold State.matchAt
    rw [(State.load_ok_iff s f _ v).2 ⟨hd i, hv⟩]
    dsimp only
    split
    · exact ih fun k hk => by rw [index_succ_add]; exact h (k + 1) (by simpa using hk)
    · exact ⟨false, rfl⟩

/-! ## The common checks -/

/-- R67, R194, R212: the three ways a one-sided data command can go. -/
theorem State.atSide_cases (s : State) (want : Side) (cls : CommandClass) (second : Bool) (k : FifoId → Result) :
    ((∀ f, portRole s.active ≠ some (f, want)) ∧ s.atSide want cls second k = s.raise .illegal second) ∨
    (∃ f, portRole s.active = some (f, want) ∧ s.gate f want cls = false ∧
      s.atSide want cls second k = s.raise .notReady second) ∨
    (∃ f, s.Admitted f want cls ∧ s.atSide want cls second k = k f) := by
  unfold State.atSide State.Admitted
  rcases hr : portRole s.active with _ | ⟨f, side⟩
  · exact .inl ⟨by simp, rfl⟩
  · by_cases hs : side = want
    · subst hs
      cases hg : s.gate f side cls with
      | false => exact .inr (.inl ⟨f, rfl, hg, by simp [hg]⟩)
      | true => exact .inr (.inr ⟨f, ⟨rfl, hg⟩, by simp [hg]⟩)
    · exact .inl ⟨fun g hg => hs (by simpa using (Prod.mk.inj (Option.some.inj hg)).2), by simp [hs]⟩

/-- R194: an admitted command goes on to its own rule. -/
theorem State.atSide_admitted {s : State} {f : FifoId} {want : Side} {cls : CommandClass}
    (h : s.Admitted f want cls) (second : Bool) (k : FifoId → Result) : s.atSide want cls second k = k f := by
  obtain ⟨hr, hg⟩ := h
  simp [State.atSide, hr, hg]

/-- R194: an admitted query goes on to its own rule. -/
theorem State.atEitherSide_admitted {s : State} {f : FifoId} {side : Side} {cls : CommandClass}
    (h : s.Admitted f side cls) (k : FifoId → Side → Result) : s.atEitherSide cls k = k f side := by
  obtain ⟨hr, hg⟩ := h
  simp [State.atEitherSide, hr, hg]

/-- R212: every gate needs the constructed condition. -/
theorem State.Admitted.valid {s : State} {f : FifoId} {side : Side} {cls : CommandClass}
    (h : s.Admitted f side cls) : (s.fifo f).valid = true := by
  have := h.2
  cases cls <;> simp [State.gate] at this <;> simp [this]

/-- R162: the two ways a control command of REST can go at port K. -/
theorem State.atControlInRest_cases (s : State) (k : Result) :
    (s.active ≠ .k ∧ s.atControlInRest k = s.raise .illegal) ∨
    (s.active = .k ∧ s.fsm ≠ .rest ∧ s.atControlInRest k = s.raise .busy) ∨
    (s.active = .k ∧ s.fsm = .rest ∧ s.atControlInRest k = k) := by
  unfold State.atControlInRest State.atControl
  by_cases ha : s.active = .k <;> by_cases hf : s.fsm = .rest <;> simp [ha, hf]

/-- A storage access that a command goes on from, or stops at. -/
theorem orFault_next_iff {α : Type} (r : Except Fault α) (k : α → Result) (t : State) :
    orFault r k = .next t ↔ ∃ a, r = .ok a ∧ k a = .next t := by
  cases r <;> simp [orFault]

/-! ## Turns that are no command -/

/-- R81: the RESET micro-op writes nothing that INIT alone writes, no storage and no fault bit. -/
theorem Fifo.clear_keeps (x : Fifo) :
    x.clear.valid = x.valid ∧ x.clear.failed = x.failed ∧ x.clear.capacity = x.capacity ∧ x.clear.mask = x.mask ∧
      x.clear.storage = x.storage ∧ x.clear.fault = x.fault := by
  unfold Fifo.clear
  split <;> simp

/-- R140 to R143: a synchroniser step changes only a seen copy and a mailbox of its FIFO. -/
theorem sync_keeps {m : Move} {s t : State} {f : FifoId}
    (hm : m = .launchPut f ∨ m = .landPut f ∨ m = .launchGet f ∨ m = .landGet f) (h : internalStep m s = some t) :
    ∃ ps gs pm gm, t = s.setFifo f { s.fifo f with putSeen := ps, getSeen := gs, putMail := pm, getMail := gm } := by
  rcases hm with rfl | rfl | rfl | rfl
  · simp only [internalStep, launchPut] at h
    split at h
    · exact ⟨_, _, _, _, (Option.some.inj h).symm⟩
    · exact absurd h (by simp)
  · simp only [internalStep, landPut] at h
    split at h
    · split at h
      · exact ⟨_, _, _, _, (Option.some.inj h).symm⟩
      · exact absurd h (by simp)
    · exact absurd h (by simp)
  · simp only [internalStep, launchGet] at h
    split at h
    · exact ⟨_, _, _, _, (Option.some.inj h).symm⟩
    · exact absurd h (by simp)
  · simp only [internalStep, landGet] at h
    split at h
    · split at h
      · exact ⟨_, _, _, _, (Option.some.inj h).symm⟩
      · exact absurd h (by simp)
    · exact absurd h (by simp)

end Sys2Proof.Machine
end

