-- ==== Sys2Proof/Laws/PerInstr.lean ====
section
/-! SUPPORT. The statements made per instruction. `RowMatch`: the command word of an instruction is covered by the row of
the opcode table that its mnemonic names (spec/30_encoding.md R64, R65), for every value of its operands. -/

namespace Sys2Proof.Laws.RowMatch

open Sys2Proof

/-- Some row of R64 carries the instruction's mnemonic and covers its command word. -/
def Statement (i : Instr) : Prop := ∃ row ∈ opcodeTable, row.mnemonic = i.mnemonic ∧ row.covers (encodeWord i)

/-- A row covers a word when every masked bit of the word is the row's. -/
theorem covers_of_bits {row : OpcodeRow} {w : Word}
    (h : ∀ k < 32, (w.getLsbD k && row.maskWord.getLsbD k) = row.matchWord.getLsbD k) : row.covers w := by
  apply BitVec.eq_of_getLsbD_eq
  intro k hk
  rw [BitVec.getLsbD_and]
  exact h k hk

/-- R61: where the bits of a command word's fields stand. -/
theorem commandWord_bit (op : BitVec 5) (f : BitVec 1) (arg : BitVec 24) (k : Nat) :
    (commandWord op f arg).getLsbD k =
      if k < 24 then arg.getLsbD k
      else if k < 26 then false
      else if k < 27 then f.getLsbD (k - 26)
      else op.getLsbD (k - 27) := by
  unfold commandWord
  simp only [BitVec.getLsbD_append, BitVec.getLsbD_zero]
  by_cases h₁ : k < 24
  · rw [if_pos h₁, if_pos h₁]
  · rw [if_neg h₁, if_neg h₁]
    by_cases h₂ : k < 26
    · rw [if_pos (show k - 24 < 2 by omega), if_pos h₂]
    · rw [if_neg (show ¬ k - 24 < 2 by omega), if_neg h₂]
      have h₃ : k - 24 - 2 = k - 26 := by omega
      have h₄ : k - 26 - 1 = k - 27 := by omega
      by_cases h₅ : k < 27
      · rw [if_pos (show k - 24 - 2 < 1 by omega), if_pos h₅, h₃]
      · rw [if_neg (show ¬ k - 24 - 2 < 1 by omega), if_neg h₅, h₃, h₄]

theorem put (b : Byte) : Statement (.put b) :=
  ⟨⟨"PUT", 0x08000000#32, 0xFFFFFF00#32⟩, by simp [opcodeTable, dataRows], rfl, covers_of_bits fun k hk => by
    rw [encodeWord, commandWord_bit]
    interval_cases k <;> simp only [BitVec.getLsbD_append] <;> simp⟩

theorem get : Statement .get :=
  ⟨⟨"GET", 0x10000000#32, 0xFFFFFFFF#32⟩, by simp [opcodeTable, dataRows], rfl, by decide⟩

theorem elems : Statement .elems :=
  ⟨⟨"ELEMS", 0x18000000#32, 0xFFFFFFFF#32⟩, by simp [opcodeTable, dataRows], rfl, by decide⟩

theorem free : Statement .free :=
  ⟨⟨"FREE", 0x20000000#32, 0xFFFFFFFF#32⟩, by simp [opcodeTable, dataRows], rfl, by decide⟩

theorem bulkWrite (payload : List Byte) : Statement (.bulkWrite payload) :=
  ⟨⟨"BULK_WRITE", 0x28000000#32, 0xFFFF0000#32⟩, by simp [opcodeTable, dataRows], rfl, covers_of_bits fun k hk => by
    rw [encodeWord, commandWord_bit]
    interval_cases k <;> simp only [lenArg, BitVec.getLsbD_append] <;> simp⟩

theorem bulkRead (len : Index) : Statement (.bulkRead len) :=
  ⟨⟨"BULK_READ", 0x30000000#32, 0xFFFF0000#32⟩, by simp [opcodeTable, dataRows], rfl, covers_of_bits fun k hk => by
    rw [encodeWord, commandWord_bit]
    interval_cases k <;> simp only [lenArg, BitVec.getLsbD_append] <;> simp⟩

theorem peekR : Statement .peekR :=
  ⟨⟨"PEEK_R", 0x38000000#32, 0xFFFFFFFF#32⟩, by simp [opcodeTable, dataRows], rfl, by decide⟩

theorem markC (len : Index) : Statement (.markC len) :=
  ⟨⟨"MARK_C", 0x40000000#32, 0xFFFF0000#32⟩, by simp [opcodeTable, dataRows], rfl, covers_of_bits fun k hk => by
    rw [encodeWord, commandWord_bit]
    interval_cases k <;> simp only [lenArg, BitVec.getLsbD_append] <;> simp⟩

theorem peekW : Statement .peekW :=
  ⟨⟨"PEEK_W", 0x48000000#32, 0xFFFFFFFF#32⟩, by simp [opcodeTable, dataRows], rfl, by decide⟩

theorem markP (len : Index) : Statement (.markP len) :=
  ⟨⟨"MARK_P", 0x50000000#32, 0xFFFF0000#32⟩, by simp [opcodeTable, dataRows], rfl, covers_of_bits fun k hk => by
    rw [encodeWord, commandWord_bit]
    interval_cases k <;> simp only [lenArg, BitVec.getLsbD_append] <;> simp⟩

theorem find (pattern : List Byte) : Statement (.find pattern) :=
  ⟨⟨"FIND", 0x58000000#32, 0xFFFF0000#32⟩, by simp [opcodeTable, dataRows], rfl, covers_of_bits fun k hk => by
    rw [encodeWord, commandWord_bit]
    interval_cases k <;> simp only [lenArg, BitVec.getLsbD_append] <;> simp⟩

theorem peekAt (index : Index) : Statement (.peekAt index) :=
  ⟨⟨"PEEK_AT", 0x60000000#32, 0xFFFF0000#32⟩, by simp [opcodeTable, dataRows], rfl, covers_of_bits fun k hk => by
    rw [encodeWord, commandWord_bit]
    interval_cases k <;> simp only [lenArg, BitVec.getLsbD_append] <;> simp⟩

theorem ldb (addr : Index) : Statement (.ldb addr) :=
  ⟨⟨"LDB", 0x68000000#32, 0xFFFF0000#32⟩, by simp [opcodeTable, dataRows], rfl, covers_of_bits fun k hk => by
    rw [encodeWord, commandWord_bit]
    interval_cases k <;> simp only [lenArg, BitVec.getLsbD_append] <;> simp⟩

theorem stb (addr : Index) (b : Byte) : Statement (.stb addr b) :=
  ⟨⟨"STB", 0x70000000#32, 0xFF000000#32⟩, by simp [opcodeTable, dataRows], rfl, covers_of_bits fun k hk => by
    rw [encodeWord, commandWord_bit]
    interval_cases k <;> simp only [BitVec.getLsbD_append] <;> simp⟩

theorem init (f : FifoId) (capacity : BitVec 24) : Statement (.init f capacity) :=
  ⟨⟨"INIT", 0x80000000#32, 0xFB000000#32⟩, by simp [opcodeTable, controlRows], rfl, covers_of_bits fun k hk => by
    rw [encodeWord, commandWord_bit]
    cases f <;> interval_cases k <;> simp only [bitOfFifo] <;> simp⟩

theorem lineCoding (stopRaw parityRaw dataRaw : Byte) (baud : Word) : Statement (.lineCoding stopRaw parityRaw dataRaw baud) :=
  ⟨⟨"LINE_CODING", 0x88000000#32, 0xFF000000#32⟩, by simp [opcodeTable, controlRows], rfl, covers_of_bits fun k hk => by
    rw [encodeWord, commandWord_bit]
    interval_cases k <;> simp only [BitVec.getLsbD_append] <;> simp⟩

theorem lineState (dtr rts : Bool) : Statement (.lineState dtr rts) :=
  ⟨⟨"LINE_STATE", 0x90000000#32, 0xFFFFFFFC#32⟩, by simp [opcodeTable, controlRows], rfl, covers_of_bits fun k hk => by
    rw [encodeWord, commandWord_bit]
    interval_cases k <;> simp only [BitVec.getLsbD_append] <;> simp⟩

theorem rdreg (f : FifoId) (n : BitVec 8) : Statement (.rdreg f n) :=
  ⟨⟨"RDREG", 0x98000000#32, 0xFBFFFF00#32⟩, by simp [opcodeTable, controlRows], rfl, covers_of_bits fun k hk => by
    rw [encodeWord, commandWord_bit]
    cases f <;> interval_cases k <;> simp only [bitOfFifo, BitVec.getLsbD_append] <;> simp⟩

end Sys2Proof.Laws.RowMatch
end

