-- ==== Sys2Proof/Tests/Slice0.lean ====
section
/-! SUPPORT. The model's own tests: terms the well-formedness check refuses, words written out from the encoding tables
(spec/30_encoding.md R61 to R65), one-step tests with the results of spec/95_test_vectors.md, and for every statement that
has hypotheses one theorem `witness_<Name>` that shows states and operands meeting them, clause by clause. -/

namespace Sys2Proof.Tests

open Sys2Proof Sys2Proof.Machine

/-! ## Small states -/

/-- A constructed FIFO of capacity 8 (mask 7) with these indices, quiescent synchronisers and this storage. -/
def ring8 (put get : Index) (storage : Memory) : Fifo :=
  { Fifo.reset with
    valid := true, capacity := 8#17, mask := 7#16, storage := storage
    putIndex := put, putSeen := put, getIndex := get, getSeen := get }

/-- A constructed FIFO of capacity 16 (mask 15). -/
def ring16 (put get : Index) (storage : Memory) : Fifo :=
  { Fifo.reset with
    valid := true, capacity := 16#17, mask := 15#16, storage := storage
    putIndex := put, putSeen := put, getIndex := get, getSeen := get }

/-- 95_test_vectors.md section 0, the state "running, empty" with FIFO 0 replaced, at a port. -/
def running (p : PortId) (x : Fifo) : State :=
  { State.reset with
    fifo0 := x, fifo1 := ring16 0#16 0#16 []
    paused := false, uartUp := true, link := .active
    reqCfg := { baud := 115200#32, dataRaw := 8#8, parityRaw := 0#8, stopRaw := 0#8 }
    lineConfig := { baudRate := 115200#32, dataBits := .eight, stopBits := .one, parity := .none }
    cfgValid := true, pollInterval := 1388#32, reqWritten := true, pollWritten := true
    active := p }

/-- The state of E7: "a", CR, LF, "b" across the wrap. -/
def e7 : Fifo := ring8 2#16 6#16 [(0, 0x0A#8), (1, 0x62#8), (6, 0x61#8), (7, 0x0D#8)]

/-- The state of V43-1 after its PEEK_R, with the bytes of V43-2. -/
def v43r : Fifo :=
  { ring8 3#16 6#16 [(0, 0x43#8), (1, 0x44#8), (2, 0x45#8), (6, 0x41#8), (7, 0x42#8)] with
    rdLease := some { ptr := 6#16, run := 2#16 } }

/-- The state of V43-11 after its PEEK_W. -/
def v43w : Fifo := { ring8 5#16 0#16 [] with wrLease := some { ptr := 5#16, run := 2#16 } }

/-- The sequencer in a state other than REST, from "running, empty" after LINE_CODING 9600, 8, 0, 0. -/
def inSequence (fsm : FsmState) (up : Bool) : State :=
  { running .k (ring8 0#16 0#16 []) with
    fsm := fsm, paused := true, uartUp := up
    reqCfg := { baud := 9600#32, dataRaw := 8#8, parityRaw := 0#8, stopRaw := 0#8 } }

/-- The next state, if there is one. -/
def nextOf : Result → Option State
  | .next t => some t
  | .fault _ => none
  | .refused _ => none

/-- `rsp0`, `rsp1` and the payload out of the response at a port. -/
def answerAt (p : PortId) (r : Result) : Option (Word × Option Word × List Byte) :=
  match nextOf r with
  | none => none
  | some t => (t.port p).response.map fun a => (a.rsp0, a.rsp1, a.payload)

/-- The response and a FIFO's four index values and open windows after a command. -/
def fifoAfter (f : FifoId) (r : Result) : Option (Index × Index × Index × Index) :=
  (nextOf r).map fun t => ((t.fifo f).putIndex, (t.fifo f).getIndex, (t.fifo f).putSeen, (t.fifo f).getSeen)

/-- The fault a result is, if it is one. -/
def faultOf : Result → Option Fault
  | .next _ => none
  | .fault e => some e
  | .refused _ => none

theorem next_of_isSome {r : Result} (h : (nextOf r).isSome = true) : ∃ t, r = .next t := by
  cases r with
  | next t => exact ⟨t, rfl⟩
  | fault e => simp [nextOf] at h
  | refused e => simp [nextOf] at h

/-! ## Well-formedness: a term each check refuses -/

theorem payloadFits_replicate (n : Nat) (b : Byte) : payloadFits (List.replicate n b) = decide (n < 65536) := by
  unfold payloadFits; rw [List.length_replicate]

theorem test_wf_bulkWrite_refused : (Instr.bulkWrite (List.replicate 65536 0#8)).wf = false :=
  (payloadFits_replicate 65536 0#8).trans (by decide)

theorem test_wf_bulkWrite_accepted : (Instr.bulkWrite (List.replicate 65535 0#8)).wf = true :=
  (payloadFits_replicate 65535 0#8).trans (by decide)

theorem test_wf_find_refused : (Instr.find (List.replicate 65536 0#8)).wf = false :=
  (payloadFits_replicate 65536 0#8).trans (by decide)

theorem test_wf_find_accepted : (Instr.find (List.replicate 65535 0#8)).wf = true :=
  (payloadFits_replicate 65535 0#8).trans (by decide)

/-! ## Decoding: words written out from R61, R64, R65 and 95_test_vectors.md -/

/-- `op` 00001, `f` 0, `z` 00, `arg[7:0]` = 41H. -/
theorem test_decode_put : decodeTableWord 32 0x08000041 = some (.put 0x41#8) := by decide

theorem test_decode_queries :
    decodeTableWord 32 0x10000000 = some .get ∧ decodeTableWord 32 0x18000000 = some .elems ∧
    decodeTableWord 32 0x20000000 = some .free := by decide

/-- A BULK_WRITE of five bytes leaves what follows them at the port. -/
theorem test_decode_bulkWrite :
    decode [0x28000005#32, 0x10000000#32] [0x41#8, 0x42#8, 0x43#8, 0x44#8, 0x45#8, 0x46#8] =
      .instr (.bulkWrite [0x41#8, 0x42#8, 0x43#8, 0x44#8, 0x45#8]) [0x10000000#32] [0x46#8] := by decide

theorem test_decode_bulkRead : decodeTableWord 32 0x30000007 = some (.bulkRead 7#16) := by decide

theorem test_decode_windows :
    decodeTableWord 32 0x38000000 = some .peekR ∧ decodeTableWord 32 0x40000002 = some (.markC 2#16) ∧
    decodeTableWord 32 0x48000000 = some .peekW ∧ decodeTableWord 32 0x50000002 = some (.markP 2#16) ∧
    decodeTableWord 32 0x68000007 = some (.ldb 7#16) ∧ decodeTableWord 32 0x70000558 = some (.stb 5#16 0x58#8) ∧
    decodeTableWord 32 0x701234AB = some (.stb 0x1234#16 0xAB#8) := by decide

theorem test_decode_scan :
    decode [0x58000002#32] [0x0D#8, 0x0A#8] = .instr (.find [0x0D#8, 0x0A#8]) [] [] ∧
    decodeTableWord 32 0x6000FFFF = some (.peekAt 0xFFFF#16) := by decide

theorem test_decode_init :
    decodeTableWord 32 0x80000008 = some (.init .h2d 8#24) ∧ decodeTableWord 32 0x8400000C = some (.init .d2h 12#24) ∧
    decodeTableWord 32 0x80FFFFFF = some (.init .h2d 0xFFFFFF#24) := by decide

/-- `LINE_CODING 9600, 9, 1, 4` (baud, data, stop, parity), program 3 step 6; without its baud word it waits (R63). -/
theorem test_decode_lineCoding :
    decode [0x88010409#32, 0x00002580#32] [] = .instr (.lineCoding 1#8 4#8 9#8 9600#32) [] [] ∧
    decode [0x88010409#32] [] = .incomplete := by decide

theorem test_decode_lineState :
    decodeTableWord 32 0x90000001 = some (.lineState true false) ∧
    decodeTableWord 32 0x90000002 = some (.lineState false true) := by decide

theorem test_decode_rdreg :
    decodeTableWord 32 0x98000014 = some (.rdreg .h2d 0x14#8) ∧ decodeTableWord 32 0x9C000006 = some (.rdreg .d2h 6#8) :=
  by decide

/-- V41-6, V41-8, V41-13, V40-8, V46-4, V46-30, V46-33, V60-3. -/
theorem test_decode_illegal :
    decodeTableWord 32 0x08000141 = none ∧ decodeTableWord 32 0x0C000041 = none ∧ decodeTableWord 32 0 = none ∧
    decodeTableWord 32 0x81000008 = none ∧ decodeTableWord 32 0x90000004 = none ∧
    decodeTableWord 32 0x98000102 = none ∧ decodeTableWord 32 0x78000000 = none ∧
    decodeTableWord 32 0xA0000000 = none ∧ decodeTableWord 32 0xF8000000 = none ∧
    decodeTableWord 32 0x82000008 = none := by decide

/-- V42-6: the payload of an undecodable word is consumed. -/
theorem test_decode_illegal_payload :
    decode [0x28010005#32] [1#8, 2#8, 3#8, 4#8, 5#8, 6#8] = .illegal .reservedBits [] [6#8] := by decide

/-- The words of the encoder, against the same tables. -/
theorem test_encode :
    encode (.stb 5#16 0x58#8) = ([0x70000558#32], []) ∧ encode (.init .d2h 12#24) = ([0x8400000C#32], []) ∧
    encode (.find [0x0D#8, 0x0A#8]) = ([0x58000002#32], [0x0D#8, 0x0A#8]) ∧
    encode (.lineCoding 1#8 4#8 9#8 9600#32) = ([0x88010409#32, 0x00002580#32], []) ∧
    encode (.rdreg .d2h 6#8) = ([0x9C000006#32], []) := by decide

/-! ## One step each, results from 95_test_vectors.md -/

/-- V41-1: PUT wraps. -/
theorem test_put_wraps :
    fifoAfter .h2d (exec (.put 0x41#8) (running .p0 (ring8 7#16 3#16 []))) = some (0#16, 3#16, 7#16, 3#16) := by decide

/-- V41-2: a stale view is Full. -/
theorem test_put_stale_full :
    answerAt .p0 (exec (.put 0x41#8) (running .p0 { ring8 7#16 3#16 [] with getSeen := 0#16 })) =
      some (0x20000000#32, none, []) := by decide

/-- V41-4: GET wraps. -/
theorem test_get_wraps :
    answerAt .c0 (exec .get (running .c0 (ring8 1#16 7#16 [(7, 0x7E#8)]))) = some (0x0000007E#32, none, []) ∧
    fifoAfter .h2d (exec .get (running .c0 (ring8 1#16 7#16 [(7, 0x7E#8)]))) = some (1#16, 0#16, 1#16, 7#16) := by decide

/-- V41-3: a stale view is Empty. -/
theorem test_get_stale_empty :
    answerAt .c0 (exec .get (running .c0 { ring8 1#16 0#16 [(0, 0x58#8)] with putSeen := 0#16 })) =
      some (0x30000000#32, none, []) := by decide

/-- V41-5: the two views of one FIFO. -/
def v415 : Fifo := { ring8 5#16 2#16 [] with putSeen := 4#16, getSeen := 1#16 }

theorem test_elems_views :
    answerAt .p0 (exec .elems (running .p0 v415)) = some (4#32, none, []) ∧
    answerAt .c0 (exec .elems (running .c0 v415)) = some (2#32, none, []) := by decide

theorem test_free_views :
    answerAt .p0 (exec .free (running .p0 v415)) = some (3#32, none, []) ∧
    answerAt .c0 (exec .free (running .c0 v415)) = some (5#32, none, []) := by decide

/-- E5: BULK_WRITE in two runs. -/
theorem test_bulkWrite_straddles :
    (nextOf (exec (.bulkWrite [0x48#8, 0x45#8, 0x4C#8, 0x4C#8, 0x4F#8]) (running .p0 (ring8 6#16 6#16 [])))).map
      (fun t => (t.fifo0.storage, t.fifo0.putIndex)) =
      some ([(0, 0x4C#8), (1, 0x4C#8), (2, 0x4F#8), (6, 0x48#8), (7, 0x45#8)], 3#16) := by decide

/-- V42-2: all or nothing. -/
theorem test_bulkWrite_full :
    (nextOf (exec (.bulkWrite [0x78#8, 0x79#8, 0x7A#8]) (running .p0 (ring8 5#16 0#16 [])))).map
      (fun t => (t.fifo0, t.portP0.response.map (·.status))) = some (ring8 5#16 0#16 [], some .full) := by decide

/-- V42-7, V42-8. -/
def v427 : Fifo := ring8 1#16 6#16 [(0, 0x33#8), (6, 0x31#8), (7, 0x32#8)]

theorem test_bulkRead_wraps :
    answerAt .c0 (exec (.bulkRead 3#16) (running .c0 v427)) =
      some (0x00000003#32, none, [0x31#8, 0x32#8, 0x33#8]) := by decide

theorem test_bulkRead_underflow :
    answerAt .c0 (exec (.bulkRead 4#16) (running .c0 v427)) = some (0x40000000#32, none, []) := by decide

/-- V43-1. -/
theorem test_peekR :
    answerAt .c0 (exec .peekR (running .c0 (ring8 3#16 6#16 []))) = some (2#32, some 6#32, []) ∧
    (nextOf (exec .peekR (running .c0 (ring8 3#16 6#16 [])))).map (fun t => t.fifo0.rdLease) =
      some (some { ptr := 6#16, run := 2#16 }) := by decide

/-- V43-7: an empty run opens no window. -/
theorem test_peekR_empty :
    (nextOf (exec .peekR (running .c0 (ring8 4#16 4#16 [])))).map (fun t => t.fifo0.rdLease) = some none := by decide

/-- V43-3. -/
theorem test_markC :
    fifoAfter .h2d (exec (.markC 2#16) (running .c0 v43r)) = some (3#16, 0#16, 3#16, 6#16) := by decide

/-- V43-4: longer than the window. -/
theorem test_markC_breach :
    (nextOf (exec (.markC 3#16) (running .c0 v43r))).map (fun t => (t.fifo0.fault, t.fifo0.rdLease, t.fifo0.getIndex)) =
      some (true, some { ptr := 6#16, run := 2#16 }, 6#16) := by decide

/-- E6, rows 1 and 4. -/
theorem test_peekW_rows :
    answerAt .p0 (exec .peekW (running .p0 (ring8 0#16 0#16 []))) = some (7#32, some 0#32, []) ∧
    answerAt .p0 (exec .peekW (running .p0 (ring8 4#16 4#16 []))) = some (4#32, some 4#32, []) := by decide

/-- V43-20: a stale view gives a short run. -/
theorem test_peekW_stale :
    answerAt .p0 (exec .peekW (running .p0 { ring8 1#16 5#16 [] with getSeen := 2#16 })) =
      some (0#32, some 1#32, []) := by decide

/-- V43-13. -/
theorem test_markP :
    fifoAfter .h2d (exec (.markP 2#16) (running .p0 v43w)) = some (7#16, 0#16, 5#16, 0#16) := by decide

/-- V43-17: the task side is paused. -/
theorem test_markP_paused :
    answerAt .p0 (exec (.markP 1#16) { running .p0 v43w with paused := true }) = some (0x80000000#32, none, []) := by
  decide

/-- V43-2. -/
theorem test_ldb :
    answerAt .c0 (exec (.ldb 7#16) (running .c0 v43r)) = some (0x42#32, none, []) ∧
    answerAt .c0 (exec (.ldb 0#16) (running .c0 v43r)) = some (0xA0000000#32, none, []) := by decide

/-- V43-16: the hardware side may finish while the task is paused. -/
theorem test_ldb_paused :
    answerAt .c0 (exec (.ldb 6#16) { running .c0 v43r with paused := true }) = some (0x41#32, none, []) := by decide

/-- V43-12. -/
theorem test_stb :
    (nextOf (exec (.stb 5#16 0x58#8) (running .p0 v43w))).map (fun t => (t.fifo0.storage, t.fifo0.fault)) =
      some ([(5, 0x58#8)], false) ∧
    (nextOf (exec (.stb 7#16 0x5A#8) (running .p0 v43w))).map (fun t => (t.fifo0.storage, t.fifo0.fault)) =
      some ([], true) := by decide

/-- E7. -/
theorem test_find_across_wrap :
    answerAt .c0 (exec (.find [0x0D#8, 0x0A#8]) (running .c0 e7)) = some (0x00000001#32, none, []) ∧
    answerAt .c0 (exec (.find [0x0A#8, 0x0D#8]) (running .c0 e7)) = some (0x50000000#32, none, []) := by decide

/-- V44-4: an empty pattern, at any port. -/
theorem test_find_empty_pattern :
    answerAt .c0 (exec (.find []) (running .c0 e7)) = some (0xB0000000#32, none, []) := by decide

/-- V44-7. -/
theorem test_peekAt :
    answerAt .c0 (exec (.peekAt 3#16) (running .c0 e7)) = some (0x62#32, none, []) ∧
    answerAt .c0 (exec (.peekAt 4#16) (running .c0 e7)) = some (0x60000000#32, none, []) := by decide

/-- V40-1. -/
theorem test_init :
    (nextOf (exec (.init .h2d 8#24) State.reset)).map
      (fun t => (t.fifo0.valid, t.fifo0.capacity, t.fifo0.mask, t.fifo1.valid)) = some (true, 8#17, 7#16, false) := by
  decide

/-- V40-2, V40-5: no power of two, and above DEPTH[0] = 8. -/
theorem test_init_invalidSize :
    answerAt .k (exec (.init .d2h 12#24) State.reset) = some (0x10000000#32, none, []) ∧
    (nextOf (exec (.init .h2d 16#24) State.reset)).map (fun t => (t.fifo0.valid, t.fifo0.failed)) = some (false, true) :=
  by decide

/-- The first row of the sequencer table of 95_test_vectors.md 2.7. -/
theorem test_lineCoding :
    (nextOf (exec (.lineCoding 0#8 0#8 8#8 9600#32) (running .k (ring8 0#16 0#16 [])))).map
      (fun t => (t.fsm, t.paused, t.reqCfg)) =
      some (.teardown, true, { baud := 9600#32, dataRaw := 8#8, parityRaw := 0#8, stopRaw := 0#8 }) := by decide

/-- V40-11: Busy before anything else. -/
theorem test_init_busy :
    answerAt .k (exec (.init .h2d 8#24) (inSequence .teardown true)) = some (0x90000000#32, none, []) := by decide

/-- V46-1. -/
theorem test_lineState_inactive :
    (nextOf (exec (.lineState false false) (running .k (ring8 0#16 0#16 [])))).map
      (fun t => (t.link, t.paused, t.events)) = some (.inactive, true, [.activityClear]) := by decide

/-- V46-2. -/
theorem test_lineState_active :
    (nextOf (exec (.lineState false true) { running .k (ring8 0#16 0#16 []) with paused := true, link := .inactive })).map
      (fun t => (t.link, t.paused, t.events)) = some (.active, false, []) := by decide

/-- 95_test_vectors.md section 0: CSTATUS, FRAME in "running, empty"; V43-1: RD_LEASE, FSTATUS. -/
theorem test_rdreg :
    answerAt .k (exec (.rdreg .h2d 0x11#8) (running .k v43r)) = some (0#32, some 0x16#32, []) ∧
    answerAt .k (exec (.rdreg .h2d 0x13#8) (running .k v43r)) = some (0#32, some 0x18#32, []) ∧
    answerAt .k (exec (.rdreg .h2d 0x07#8) (running .k v43r)) = some (0#32, some 0x00020006#32, []) ∧
    answerAt .k (exec (.rdreg .h2d 0x06#8) (running .k v43r)) = some (0#32, some 0x05#32, []) := by decide

/-- V46-28, V46-29. -/
theorem test_rdreg_illegal :
    answerAt .k (exec (.rdreg .h2d 0x17#8) (running .k v43r)) = some (0xB0000000#32, some 0#32, []) ∧
    answerAt .k (exec (.rdreg .d2h 0x10#8) (running .k v43r)) = some (0xB0000000#32, some 0#32, []) := by decide

/-- V46-12: coercion. -/
theorem test_validate_coerces :
    (fsmStep { inSequence .validate false with
        reqCfg := { baud := 115200#32, dataRaw := 4#8, parityRaw := 3#8, stopRaw := 1#8 } }).map
      (fun t => (t.lineConfig, t.coerced, t.fsm)) =
      some ({ baudRate := 115200#32, dataBits := .eight, stopBits := .one, parity := .none }, true, .retime) := by decide

/-- E3: the reference instance at 115200, 9600, 0 and 1000000 baud. -/
theorem test_poll_reference :
    referencePollFn 115200#32 = 1388#32 ∧ referencePollFn 9600#32 = 16666#32 ∧
    referencePollFn 0#32 = 0xFFFFFFFF#32 ∧ referencePollFn 1000000#32 = 1000#32 := by decide

/-- E8: RESET. -/
theorem test_clear :
    Fifo.clear { ring8 5#16 2#16 [(2, 0x41#8)] with
        putSeen := 4#16, getSeen := 1#16, putMail := some 5#16, rdLease := some { ptr := 2#16, run := 2#16 } } =
      ring8 0#16 0#16 [(2, 0x41#8)] := by decide

/-- V45-3, V45-4: after a PUT only LAUNCH_PUT is enabled, and an index that wrapped crosses. -/
theorem test_launchPut :
    (launchPut .h2d (running .p0 { ring8 1#16 7#16 [] with putSeen := 7#16 })).map (fun t => t.fifo0.putMail) =
      some (some 1#16) ∧
    landPut .h2d (running .p0 { ring8 1#16 7#16 [] with putSeen := 7#16 }) = none := by decide

theorem test_landPut :
    (landPut .h2d (running .p0 { ring8 1#16 7#16 [] with putSeen := 7#16, putMail := some 1#16 })).map
      (fun t => (t.fifo0.putSeen, t.fifo0.putMail)) = some (1#16, none) := by decide

/-- The first step after reset runs the placed instruction: V40-1, and V41-10. -/
theorem test_step_placed :
    (nextOf (step (State.reset.withFetchWord 32 0x80000008))).map (fun t => t.fifo0.valid) = some true ∧
    answerAt .p0 (step (State.reset.withFetchWord 32 0x08000041)) = some (0x80000000#32, none, []) := by decide

/-! ## Invariants of the small states -/

theorem shape_of {x : Fifo} {d : Nat} (k : Nat) (hv : x.valid = true) (hk : k ≤ 16) (hc : x.capacity.toNat = 2 ^ k)
    (hd : x.capacity.toNat ≤ d) (hf : x.failed = false) (hs : Memory.wf x.storage = true)
    (hi : ∀ c ∈ x.storage, c.1 < x.capacity.toNat) (hm : x.mask.toNat + 1 = x.capacity.toNat)
    (hx : x.putIndex.toNat ≤ x.mask.toNat ∧ x.getIndex.toNat ≤ x.mask.toNat ∧ x.putSeen.toNat ≤ x.mask.toNat ∧
      x.getSeen.toNat ≤ x.mask.toNat)
    (hp : x.putMail = none) (hg : x.getMail = none) : x.Shape d where
  flags := fun h => by simp [hf] at h
  storageSorted := hs
  storageInside := hi
  unconstructed := fun h => by simp [hv] at h
  powerOfTwo := fun _ => ⟨k, hk, hc⟩
  capacityFits := hd
  maskIs := fun _ => hm
  indices := hx
  mails := ⟨fun v h => by simp [hp] at h, fun v h => by simp [hg] at h⟩

theorem shape_reset (d : Nat) : Fifo.reset.Shape d where
  flags := fun h => by simp [Fifo.reset] at h
  storageSorted := rfl
  storageInside := fun c h => by simp [Fifo.reset] at h
  unconstructed := fun _ => ⟨rfl, rfl, rfl, rfl, rfl, rfl, rfl, rfl, rfl, rfl⟩
  powerOfTwo := fun h => by simp [Fifo.reset] at h
  capacityFits := Nat.zero_le _
  maskIs := fun h => by simp [Fifo.reset] at h
  indices := ⟨Nat.le_refl 0, Nat.le_refl 0, Nat.le_refl 0, Nat.le_refl 0⟩
  mails := ⟨fun v h => by simp [Fifo.reset] at h, fun v h => by simp [Fifo.reset] at h⟩

theorem shape_empty8 : (ring8 0#16 0#16 []).Shape 8 :=
  shape_of 3 rfl (by decide) rfl (by decide) rfl rfl (by decide) rfl (by decide) rfl rfl

theorem shape_full8 : (ring8 7#16 0#16 []).Shape 8 :=
  shape_of 3 rfl (by decide) rfl (by decide) rfl rfl (by decide) rfl (by decide) rfl rfl

theorem shape_v411 : (ring8 7#16 3#16 []).Shape 8 :=
  shape_of 3 rfl (by decide) rfl (by decide) rfl rfl (by decide) rfl (by decide) rfl rfl

theorem shape_v431 : (ring8 3#16 6#16 []).Shape 8 :=
  shape_of 3 rfl (by decide) rfl (by decide) rfl rfl (by decide) rfl (by decide) rfl rfl

theorem shape_e7 : e7.Shape 8 :=
  shape_of 3 rfl (by decide) rfl (by decide) rfl (by decide) (by decide) rfl (by decide) rfl rfl

theorem shape_v43r : v43r.Shape 8 :=
  shape_of 3 rfl (by decide) rfl (by decide) rfl (by decide) (by decide) rfl (by decide) rfl rfl

theorem shape_v43w : v43w.Shape 8 :=
  shape_of 3 rfl (by decide) rfl (by decide) rfl rfl (by decide) rfl (by decide) rfl rfl

theorem shape_v415 : v415.Shape 8 :=
  shape_of 3 rfl (by decide) rfl (by decide) rfl rfl (by decide) rfl (by decide) rfl rfl

theorem shape_empty16 : (ring16 0#16 0#16 []).Shape 16 :=
  shape_of 4 rfl (by decide) rfl (by decide) rfl rfl (by decide) rfl (by decide) rfl rfl

theorem ordered_of {x : Fifo}
    (h : x.span x.getIndex x.getSeen + x.span x.putSeen x.getIndex + x.span x.putIndex x.putSeen + 1 ≤ x.capacity.toNat)
    (hp : x.putMail = none) (hg : x.getMail = none) : x.Ordered :=
  ⟨h, fun v h => by simp [hg] at h, fun v h => by simp [hp] at h⟩

theorem windows_of {x : Fifo} (hr : x.rdLease = none) (hw : x.wrLease = none) : x.Windows :=
  ⟨fun l h => by simp [hr] at h, fun l h => by simp [hw] at h⟩

theorem ordered_empty8 : (ring8 0#16 0#16 []).Ordered := ordered_of (by decide) rfl rfl

theorem ordered_empty16 : (ring16 0#16 0#16 []).Ordered := ordered_of (by decide) rfl rfl

theorem ordered_v43w : v43w.Ordered := ordered_of (by decide) rfl rfl

theorem ordered_v431 : (ring8 3#16 6#16 []).Ordered := ordered_of (by decide) rfl rfl

theorem ordered_v415 : v415.Ordered := ordered_of (by decide) rfl rfl

theorem windows_v43r : v43r.Windows := ⟨by decide, by decide⟩

theorem windows_v43w : v43w.Windows := ⟨by decide, by decide⟩

theorem fifoInv_empty8 (p : PortId) : (running p (ring8 0#16 0#16 [])).FifoInv .h2d where
  shape := shape_empty8
  ordered := fun _ => ordered_empty8
  windows := windows_of rfl rfl
  eager := fun h => by simp [running, State.reset, Params.default] at h

theorem fifoInv_v43w (p : PortId) : (running p v43w).FifoInv .h2d where
  shape := shape_v43w
  ordered := fun _ => ordered_v43w
  windows := windows_v43w
  eager := fun h => by simp [running, State.reset, Params.default] at h

theorem fifoInv_empty16 (p : PortId) (x : Fifo) : (running p x).FifoInv .d2h where
  shape := shape_empty16
  ordered := fun _ => ordered_empty16
  windows := windows_of rfl rfl
  eager := fun h => by simp [running, State.reset, Params.default] at h

theorem phase_running (p : PortId) (x : Fifo) : (running p x).phase = 0 := rfl

theorem sequenceInv_running (p : PortId) (x : Fifo) : (running p x).SequenceInv where
  paused := fun h => absurd rfl h
  requested := fun _ => rfl
  uartDown := fun h => by simp [phase_running] at h
  uartUp := fun h => by simp [phase_running] at h
  drained := fun h => by simp [phase_running] at h
  cleared := fun h => by simp [phase_running] at h
  resolved := fun h => by simp [phase_running] at h
  retimed := fun h => by simp [phase_running] at h
  settings := fun _ => rfl
  request := fun _ => rfl
  interval := fun _ _ => (by decide : 1388#32 = referencePollFn 115200#32)
  atRest := fun _ => ⟨rfl, rfl⟩

/-- "Running, empty" meets the whole invariant. -/
theorem inv_running_empty (p : PortId) : (running p (ring8 0#16 0#16 [])).Inv :=
  ⟨fifoInv_empty8 p, fifoInv_empty16 p _, sequenceInv_running p _⟩

/-- So does the state of V43-11 with its window open. -/
theorem inv_running_v43w (p : PortId) : (running p v43w).Inv :=
  ⟨fifoInv_v43w p, fifoInv_empty16 p _, sequenceInv_running p _⟩

/-! ## Every hypothesis is met somewhere -/

/-- The least and the longest payload. -/
theorem witness_DecodeEncodeRoundTrip :
    (Instr.find []).wf = true ∧ (Instr.bulkWrite (List.replicate 65535 0#8)).wf = true :=
  ⟨rfl, test_wf_bulkWrite_accepted⟩

/-- Every row covers its own match word. -/
theorem witness_WordIsCommandIffRowCovers : ∀ row ∈ opcodeTable, row.covers row.matchWord := by decide

/-- V40-1 with a PUT word waiting at P0. -/
def putWaiting : State :=
  { running .k (ring8 0#16 0#16 []) with
    portP0 := { words := [0x08000041#32], bytes := [], response := none }
    turns := [.port .p0, .launchPut .h2d] }

theorem witness_StepRunsDecodedInstruction :
    (putWaiting.takeTurn = (.port .p0, { putWaiting with turns := [.launchPut .h2d] }) ∧
      decode [0x08000041#32] [] = .instr (.put 0x41#8) [] [] ∧ (Instr.put 0x41#8).wf = true) ∧
    (({ putWaiting with turns := [.fsm] } : State).takeTurn = (.fsm, { putWaiting with turns := [] }) ∧
      ∀ p, Move.fsm ≠ .port p) ∧
    putWaiting.turns = .port .p0 :: [.launchPut .h2d] ∧ State.reset.turns = [] :=
  ⟨⟨rfl, by decide, rfl⟩, ⟨rfl, fun p h => by cases h⟩, rfl, rfl⟩

/-- No word; a BULK_WRITE of two bytes with one of them; a LINE_CODING without its baud word. -/
theorem witness_PortWaitsForWholePayload :
    (State.reset.port .p0).words = [] ∧
    ([0x41#8] : List Byte).length < payloadByteCount 0x28000002#32 ∧
    ([] : List Word).length < payloadWordCount 0x88000008#32 := by decide

/-- V41-13, V42-6, and a LINE_CODING word with `z` = 01. -/
theorem witness_UndecodableWordEndsIllegal :
    ((∀ row ∈ opcodeTable, ¬ row.covers 0x00000000#32) ∧ payloadByteCount 0x00000000#32 = 0) ∧
    ((∀ row ∈ opcodeTable, ¬ row.covers 0x28010005#32) ∧ payloadByteCount 0x28010005#32 ≤ 5) ∧
    ((∀ row ∈ opcodeTable, ¬ row.covers 0x89000000#32) ∧ payloadWordCount 0x89000000#32 ≤ 1) := by decide

/-- V41-7, V46-31. -/
theorem witness_IllegalAtWrongPort :
    portAccepts .c0 (.put 0x41#8) = false ∧ portAccepts .p0 .get = false ∧ portAccepts .k .elems = false ∧
    portAccepts .p1 (.rdreg .h2d 0#8) = false := by decide

/-- Each way a gate is closed: V41-10, V41-9, V46-6 (both hardware sides), V43-17. -/
theorem witness_NotReadyWhenGateClosed :
    (portRole .p0 = some (.h2d, .producer) ∧ portAccepts .p0 .elems = true ∧
      Instr.elems.commandClass = some .query ∧ (State.reset.fifo .h2d).valid = false) ∧
    (portRole .p0 = some (.h2d, .producer) ∧ portAccepts .p0 (.put 0x41#8) = true ∧
      (Instr.put 0x41#8).commandClass = some .move ∧
      ({ running .p0 e7 with paused := true } : State).paused = true) ∧
    (portRole .c0 = some (.h2d, .consumer) ∧ portAccepts .c0 .get = true ∧ Instr.get.commandClass = some .move ∧
      Side.consumer ≠ taskSide .h2d ∧ ({ running .c0 e7 with uartUp := false } : State).uartUp = false) ∧
    (portRole .p1 = some (.d2h, .producer) ∧ portAccepts .p1 .peekW = true ∧ Side.producer ≠ taskSide .d2h) ∧
    (portRole .p0 = some (.h2d, .producer) ∧ portAccepts .p0 (.markP 1#16) = true ∧
      (Instr.markP 1#16).commandClass = some .complete ∧ Side.producer = taskSide .h2d ∧
      ({ running .p0 v43w with paused := true } : State).paused = true) := by decide

/-- The first and the last state of the sequence. -/
theorem witness_BusyOutsideRest :
    (inSequence .teardown true).active = .k ∧ (inSequence .teardown true).fsm ≠ .rest ∧
    (inSequence .resume true).active = .k ∧ (inSequence .resume true).fsm ≠ .rest := by decide

/-- V41-12, V42-2 by one byte, V44-6, V42-7, V44-7 at the boundary. -/
theorem witness_CapacityStatusesChangeNothing :
    ((running .p0 (ring8 7#16 0#16 [])).Admitted .h2d .producer .move ∧
      (ring8 7#16 0#16 []).occP.toNat = (ring8 7#16 0#16 []).capacity.toNat - 1) ∧
    ((running .p0 (ring8 5#16 0#16 [])).Admitted .h2d .producer .move ∧
      (ring8 5#16 0#16 []).freeP < [0x78#8, 0x79#8, 0x7A#8].length) ∧
    ((running .c0 (ring8 0#16 0#16 [])).Admitted .h2d .consumer .move ∧ (ring8 0#16 0#16 []).occC = 0#16) ∧
    ((running .c0 e7).Admitted .h2d .consumer .move ∧ e7.occC.toNat < (5#16).toNat ∧
      e7.occC.toNat ≤ (4#16).toNat) := by
  unfold State.Admitted; decide

/-- V43-7, V43-4, V43-2 (both ends), V43-14, V43-12 (both ends), and STB with no window. -/
theorem witness_ContractBreachSetsFault :
    ((running .c0 (ring8 4#16 4#16 [])).Admitted .h2d .consumer .complete ∧
      (∀ l ∈ (ring8 4#16 4#16 []).rdLease, l.run.toNat < (0#16).toNat)) ∧
    ((running .c0 v43r).Admitted .h2d .consumer .complete ∧ (∀ l ∈ v43r.rdLease, l.run.toNat < (3#16).toNat) ∧
      (∀ l ∈ v43r.rdLease, (5#16).toNat < l.ptr.toNat ∨ l.ptr.toNat + l.run.toNat ≤ (5#16).toNat) ∧
      (∀ l ∈ v43r.rdLease, (8#16).toNat < l.ptr.toNat ∨ l.ptr.toNat + l.run.toNat ≤ (8#16).toNat)) ∧
    ((running .p0 v43w).Admitted .h2d .producer .complete ∧ (∀ l ∈ v43w.wrLease, l.run.toNat < (3#16).toNat) ∧
      (∀ l ∈ v43w.wrLease, (4#16).toNat < l.ptr.toNat ∨ l.ptr.toNat + l.run.toNat ≤ (4#16).toNat) ∧
      (∀ l ∈ v43w.wrLease, (7#16).toNat < l.ptr.toNat ∨ l.ptr.toNat + l.run.toNat ≤ (7#16).toNat)) ∧
    (∀ l ∈ (ring8 5#16 0#16 []).wrLease, (5#16).toNat < l.ptr.toNat ∨ l.ptr.toNat + l.run.toNat ≤ (5#16).toNat) := by
  unfold State.Admitted; decide

/-- The state of V43-1 with nothing ever written, at the first and the last visible offset; and its window. -/
theorem witness_UnwrittenByteIsFault :
    ((running .c0 (ring8 3#16 6#16 [])).fifo .h2d).Shape ((running .c0 (ring8 3#16 6#16 [])).depth .h2d) ∧
    ((running .c0 (ring8 3#16 6#16 [])).Admitted .h2d .consumer .move ∧ (ring8 3#16 6#16 []).occC ≠ 0#16 ∧
      (running .c0 (ring8 3#16 6#16 [])).content .h2d 0 = none ∧ (5#16).toNat ≤ (ring8 3#16 6#16 []).occC.toNat ∧
      (4#16).toNat < (ring8 3#16 6#16 []).occC.toNat ∧
      (running .c0 (ring8 3#16 6#16 [])).content .h2d (4#16).toNat = none ∧
      [0x41#8, 0x42#8, 0x43#8, 0x44#8, 0x45#8].length ≤ (ring8 3#16 6#16 []).occC.toNat) ∧
    ((running .c0 { v43r with storage := [] }).Admitted .h2d .consumer .complete ∧
      ({ v43r with storage := [] } : Fifo).rdLease = some { ptr := 6#16, run := 2#16 } ∧
      Memory.read ({ v43r with storage := [] } : Fifo).storage (7#16).toNat = none) ∧
    ({ v43r with storage := [] } : Fifo).Shape 8 ∧ ({ v43r with storage := [] } : Fifo).Windows := by
  refine ⟨shape_v431, by unfold State.Admitted; decide, by unfold State.Admitted; decide, ?_,
    ⟨by decide, by decide⟩⟩
  exact shape_of 3 rfl (by decide) rfl (by decide) rfl rfl (by decide) rfl (by decide) rfl rfl

/-- V40-1 (a capacity that is all of `DEPTH[0]`) and V40-4 (capacity 1). -/
theorem witness_InitConstructsInstance :
    State.reset.active = .k ∧ State.reset.fsm = .rest ∧ (State.reset.fifo .h2d).valid = false ∧
    (State.reset.fifo .h2d).failed = false ∧ (8#24).toNat = 2 ^ 3 ∧ (8#24).toNat ≤ State.reset.depth .h2d ∧
    (1#24).toNat = 2 ^ 0 ∧ (1#24).toNat ≤ State.reset.depth .h2d := by decide

/-- V40-6, V40-7; V40-3 (zero), V40-2 (no power of two), V40-5 (above `DEPTH[0]`). -/
theorem witness_InitRefusesAndRecords :
    ((running .k e7).fsm = .rest ∧ ((running .k e7).fifo .h2d).valid = true) ∧
    (({ State.reset with fifo1 := { Fifo.reset with failed := true } } : State).fifo .d2h).failed = true ∧
    (State.reset.active = .k ∧ (State.reset.fifo .h2d).valid = false ∧ (State.reset.fifo .h2d).failed = false) ∧
    (∀ k, (0#24).toNat ≠ 2 ^ k) ∧ (∀ k, (12#24).toNat ≠ 2 ^ k) ∧ State.reset.depth .h2d < (16#24).toNat := by
  refine ⟨by decide, by decide, by decide, fun k => ?_, fun k => ?_, by decide⟩
  · exact (Nat.two_pow_pos k).ne
  · rcases Nat.lt_or_ge k 4 with h | h
    · interval_cases k <;> decide
    · have : 2 ^ 4 ≤ 2 ^ k := Nat.pow_le_pow_right (by decide) h
      have h12 : (12#24).toNat = 12 := rfl
      omega

/-- Empty, and one byte short of full at the physical end (V41-1 has room for more). -/
theorem witness_PutStoresAndAdvances :
    ((running .p0 (ring8 0#16 0#16 [])).Admitted .h2d .producer .move ∧ (ring8 0#16 0#16 []).Shape 8 ∧
      (ring8 0#16 0#16 []).occP.toNat ≠ (ring8 0#16 0#16 []).capacity.toNat - 1) ∧
    ((running .p0 (ring8 7#16 3#16 [])).Admitted .h2d .producer .move ∧ (ring8 7#16 3#16 []).Shape 8 ∧
      (ring8 7#16 3#16 []).occP.toNat ≠ (ring8 7#16 3#16 []).capacity.toNat - 1) :=
  ⟨⟨⟨rfl, rfl⟩, shape_empty8, by decide⟩, ⟨⟨rfl, rfl⟩, shape_v411, by decide⟩⟩

theorem witness_GetReturnsOldestByte :
    (running .c0 e7).Admitted .h2d .consumer .move ∧ e7.Shape 8 ∧ e7.occC ≠ 0#16 ∧
    (running .c0 e7).content .h2d 0 = some 0x61#8 := ⟨⟨rfl, rfl⟩, shape_e7, by decide, by decide⟩

theorem witness_ElemsAndFreeAnswerTheView :
    (running .p0 v415).Admitted .h2d .producer .query ∧ (running .c0 v415).Admitted .h2d .consumer .query ∧
    v415.Shape 8 := ⟨⟨rfl, rfl⟩, ⟨rfl, rfl⟩, shape_v415⟩

/-- No byte, and exactly as many as are free. -/
theorem witness_BulkWriteStoresAll :
    (running .p0 v415).Admitted .h2d .producer .move ∧ v415.Shape 8 ∧ ([] : List Byte).length ≤ v415.freeP ∧
    [1#8, 2#8, 3#8].length = v415.freeP := ⟨⟨rfl, rfl⟩, shape_v415, by decide, by decide⟩

/-- No byte, and all that is visible. -/
theorem witness_BulkReadReturnsAll :
    (running .c0 e7).Admitted .h2d .consumer .move ∧ e7.Shape 8 ∧ (0#16).toNat ≤ e7.occC.toNat ∧
    (4#16).toNat = e7.occC.toNat ∧ ∀ k < (4#16).toNat, (running .c0 e7).content .h2d k ≠ none :=
  ⟨⟨rfl, rfl⟩, shape_e7, by decide, by decide, by decide⟩

/-- A window that stops at the physical end, and an empty FIFO. -/
theorem witness_PeekROpensReadWindow :
    ((running .c0 e7).Admitted .h2d .consumer .move ∧ e7.Shape 8) ∧
    (running .c0 (ring8 0#16 0#16 [])).Admitted .h2d .consumer .move ∧ (ring8 0#16 0#16 []).Shape 8 :=
  ⟨⟨⟨rfl, rfl⟩, shape_e7⟩, ⟨rfl, rfl⟩, shape_empty8⟩

/-- None of the window, and all of it. -/
theorem witness_MarkCRetires :
    (running .c0 v43r).Admitted .h2d .consumer .complete ∧ v43r.Shape 8 ∧
    v43r.rdLease = some { ptr := 6#16, run := 2#16 } ∧ (0#16).toNat ≤ (2#16).toNat ∧ (2#16).toNat ≤ (2#16).toNat :=
  ⟨⟨rfl, rfl⟩, shape_v43r, rfl, by decide, by decide⟩

/-- The three cases of R112: the consumer seen at 0, not ahead of the producer, ahead of it. -/
theorem witness_PeekWOpensWriteWindow :
    ((running .p0 (ring8 0#16 0#16 [])).Admitted .h2d .producer .move ∧ (ring8 0#16 0#16 []).Shape 8 ∧
      (ring8 0#16 0#16 []).getSeen = 0#16) ∧
    ((running .p0 (ring8 7#16 3#16 [])).Admitted .h2d .producer .move ∧ (ring8 7#16 3#16 []).Shape 8 ∧
      (ring8 7#16 3#16 []).getSeen ≠ 0#16 ∧
      (ring8 7#16 3#16 []).getSeen.toNat ≤ (ring8 7#16 3#16 []).putIndex.toNat) ∧
    ((running .p0 (ring8 3#16 6#16 [])).Admitted .h2d .producer .move ∧ (ring8 3#16 6#16 []).Shape 8 ∧
      (ring8 3#16 6#16 []).putIndex.toNat < (ring8 3#16 6#16 []).getSeen.toNat) :=
  ⟨⟨⟨rfl, rfl⟩, shape_empty8, rfl⟩, ⟨⟨rfl, rfl⟩, shape_v411, by decide, by decide⟩, ⟨⟨rfl, rfl⟩, shape_v431, by decide⟩⟩

theorem witness_MarkPPublishes :
    (running .p0 v43w).Admitted .h2d .producer .complete ∧ v43w.Shape 8 ∧
    v43w.wrLease = some { ptr := 5#16, run := 2#16 } ∧ (0#16).toNat ≤ (2#16).toNat ∧ (2#16).toNat ≤ (2#16).toNat :=
  ⟨⟨rfl, rfl⟩, shape_v43w, rfl, by decide, by decide⟩

/-- The first and the last byte of the window. -/
theorem witness_LdbReadsWindow :
    (running .c0 v43r).Admitted .h2d .consumer .complete ∧ v43r.Shape 8 ∧ v43r.Windows ∧
    v43r.rdLease = some { ptr := 6#16, run := 2#16 } ∧ (6#16).toNat ≤ (7#16).toNat ∧
    (7#16).toNat < (6#16).toNat + (2#16).toNat ∧ Memory.read v43r.storage (6#16).toNat = some 0x41#8 ∧
    Memory.read v43r.storage (7#16).toNat = some 0x42#8 :=
  ⟨⟨rfl, rfl⟩, shape_v43r, windows_v43r, rfl, by decide, by decide, by decide, by decide⟩

theorem witness_StbWritesWindow :
    (running .p0 v43w).Admitted .h2d .producer .complete ∧ v43w.Shape 8 ∧ v43w.Windows ∧
    v43w.wrLease = some { ptr := 5#16, run := 2#16 } ∧ (5#16).toNat ≤ (6#16).toNat ∧
    (6#16).toNat < (5#16).toNat + (2#16).toNat :=
  ⟨⟨rfl, rfl⟩, shape_v43w, windows_v43w, rfl, by decide, by decide⟩

/-- E7: a match at offset 1 across the wrap, and a pattern that stands nowhere. -/
theorem witness_FindAnswersFirstMatch :
    (running .c0 e7).Admitted .h2d .consumer .move ∧ e7.Shape 8 ∧
    (∀ k < e7.occC.toNat, (running .c0 e7).content .h2d k ≠ none) ∧
    ((running .c0 e7).PatternAt .h2d [0x0D#8, 0x0A#8] 1 ∧
      ∀ j < 1, ¬ (running .c0 e7).PatternAt .h2d [0x0D#8, 0x0A#8] j) ∧
    ∀ k, ¬ (running .c0 e7).PatternAt .h2d [0x0A#8, 0x0D#8] k := by
  refine ⟨⟨rfl, rfl⟩, shape_e7, by decide, by unfold State.PatternAt; decide, fun k => ?_⟩
  rcases Nat.lt_or_ge k 3 with h | h
  · interval_cases k <;> (unfold State.PatternAt; decide)
  · intro hp
    have h1 := hp.1
    have h2 : ((running .c0 e7).fifo .h2d).occC.toNat = 4 := by decide
    simp only [List.length_cons, List.length_nil] at h1
    omega

/-- The last visible offset of E7. -/
theorem witness_PeekAtReadsOffset :
    (running .c0 e7).Admitted .h2d .consumer .move ∧ e7.Shape 8 ∧ (3#16).toNat < e7.occC.toNat ∧
    (running .c0 e7).content .h2d (3#16).toNat = some 0x62#8 := ⟨⟨rfl, rfl⟩, shape_e7, by decide, by decide⟩

theorem witness_LineStateAppliesEvent :
    (running .k e7).active = .k ∧ (running .k e7).fsm = .rest ∧
    linkAsserted (running .k e7).params.linkAssert true false = true ∧
    linkAsserted (running .k e7).params.linkAssert false false = false := by decide

theorem witness_LineCodingEntersReconfiguration : (running .k e7).active = .k ∧ (running .k e7).fsm = .rest := by decide

/-- Windows open and closed, the registers written, and the ends of the two reserved ranges of numbers. -/
theorem witness_RdregReturnsRegisterMap :
    (running .k v43r).active = .k ∧ ((running .k v43r).fifo .h2d).rdLease = some { ptr := 6#16, run := 2#16 } ∧
    ((running .k v43r).fifo .h2d).wrLease = none ∧
    ((running .k v43w).fifo .h2d).wrLease = some { ptr := 5#16, run := 2#16 } ∧
    ((running .k v43w).fifo .h2d).rdLease = none ∧
    (running .k v43r).cfgValid = true ∧ (running .k v43r).pollWritten = true ∧ (running .k v43r).reqWritten = true ∧
    (0x08 < (0x09#8).toNat ∧ (0x0F#8).toNat < 0x10) ∧ 0x16 < (0x17#8).toNat ∧ 0x16 < (0xFF#8).toNat ∧
    0x10 ≤ (0x10#8).toNat := by decide

theorem witness_RdregOfUnwrittenRegisterIsFree :
    State.reset.active = .k ∧ State.reset.cfgValid = false ∧ State.reset.pollWritten = false ∧
    State.reset.reqWritten = false := by decide

theorem witness_FramePutBulkWrite :
    (∃ t, exec (.put 0x41#8) (running .p0 v415) = .next t) ∧
    ∃ t, exec (.bulkWrite [1#8, 2#8, 3#8]) (running .p0 v415) = .next t :=
  ⟨next_of_isSome (by decide), next_of_isSome (by decide)⟩

theorem witness_FrameStb : ∃ t, exec (.stb 6#16 0x59#8) (running .p0 v43w) = .next t := next_of_isSome (by decide)

theorem witness_FramePeekWMarkP :
    (∃ t, exec .peekW (running .p0 v415) = .next t) ∧ ∃ t, exec (.markP 2#16) (running .p0 v43w) = .next t :=
  ⟨next_of_isSome (by decide), next_of_isSome (by decide)⟩

theorem witness_FrameConsumerMoves :
    (∃ t, exec .get (running .c0 e7) = .next t) ∧ (∃ t, exec (.bulkRead 4#16) (running .c0 e7) = .next t) ∧
    (∃ t, exec .peekR (running .c0 e7) = .next t) ∧ ∃ t, exec (.markC 2#16) (running .c0 v43r) = .next t :=
  ⟨next_of_isSome (by decide), next_of_isSome (by decide), next_of_isSome (by decide), next_of_isSome (by decide)⟩

theorem witness_FrameReads :
    (∃ t, exec .elems (running .c0 e7) = .next t) ∧ (∃ t, exec .free (running .p0 e7) = .next t) ∧
    (∃ t, exec (.find [0x0D#8]) (running .c0 e7) = .next t) ∧ (∃ t, exec (.peekAt 3#16) (running .c0 e7) = .next t) ∧
    (∃ t, exec (.ldb 8#16) (running .c0 v43r) = .next t) ∧ ∃ t, exec (.rdreg .h2d 6#8) (running .k e7) = .next t :=
  ⟨next_of_isSome (by decide), next_of_isSome (by decide), next_of_isSome (by decide), next_of_isSome (by decide),
    next_of_isSome (by decide), next_of_isSome (by decide)⟩

theorem witness_FrameInit : ∃ t, exec (.init .h2d 8#24) State.reset = .next t := next_of_isSome (by decide)

theorem witness_FrameLineCommands :
    (∃ t, exec (.lineState true false) State.reset = .next t) ∧
    ∃ t, exec (.lineCoding 0#8 0#8 8#8 9600#32) State.reset = .next t :=
  ⟨next_of_isSome (by decide), next_of_isSome (by decide)⟩

theorem witness_SequencerOrder : (fsmStep (inSequence .resume true)).isSome = true := by decide

theorem witness_DrainWaitsForHardwareWindows : (inSequence .drain false).fsm = .drain := rfl

/-- A constructed and a never constructed instance. -/
theorem witness_ClearEmptiesBothFifos :
    (inSequence .clear false).fsm = .clear ∧ ((inSequence .clear false).fifo .h2d).valid = true ∧
    (({ inSequence .clear false with fifo1 := Fifo.reset } : State).fifo .d2h).valid = false := by decide

theorem witness_ResetIsIdempotent : e7.valid = true := rfl

/-- The supported ends 5 and 8 and the unsupported 4, 9 and 16 of the data bits; each value of the other fields. -/
theorem witness_ValidateResolvesSettings :
    (inSequence .validate false).fsm = .validate ∧ (5 ≤ (5#8).toNat ∧ (8#8).toNat ≤ 8) ∧ (4#8).toNat < 5 ∧
    8 < (9#8).toNat ∧ 8 < (16#8).toNat ∧ 1#8 ≠ 2#8 ∧ 0#8 ≠ 2#8 ∧ (3#8 ≠ 1#8 ∧ 3#8 ≠ 2#8) := by decide

theorem witness_RetimeObeysPollLaws :
    (inSequence .retime false).fsm = .retime ∧ 0 < (1#32).toNat ∧ (1#32).toNat ≤ (0xFFFFFFFF#32).toNat := by decide

theorem witness_TeardownAndReinitDriveUart :
    (inSequence .teardown true).fsm = .teardown ∧ (inSequence .reinit false).fsm = .reinit := by decide

/-- Each way out of RESUME. -/
theorem witness_ResumeReturnsToRest :
    (inSequence .resume true).fsm = .resume ∧ (inSequence .resume true).params.resumeRespectsLink = false ∧
    (inSequence .resume true).link = .active ∧
    ({ Params.default with resumeRespectsLink := true } : Params).resumeRespectsLink = true ∧
    ({ inSequence .resume true with link := .inactive } : State).link = .inactive := by decide

theorem witness_ReconfigurationEndsInRest :
    (inSequence .teardown true).fsm = .teardown ∧ ((inSequence .teardown true).fifo .h2d).rdLease = none ∧
    ((inSequence .teardown true).fifo .d2h).wrLease = none := by decide

/-- Each of the four steps is enabled somewhere. -/
theorem witness_CrossingSteps :
    (launchPut .h2d (running .k v415)).isSome = true ∧ (launchGet .h2d (running .k v415)).isSome = true ∧
    (landPut .h2d (running .k { v415 with putMail := some 5#16 })).isSome = true ∧
    (landGet .h2d (running .k { v415 with getMail := some 2#16 })).isSome = true := by decide

/-- V45-5 in shape: the three views differ. -/
theorem witness_LaggingViewIsConservative :
    v415.valid = true ∧ v415.Shape 8 ∧ v415.Ordered ∧ v415.occC = 2#16 ∧ v415.occTrue = 3#16 ∧ v415.occP = 4#16 :=
  ⟨rfl, shape_v415, ordered_v415, by decide, by decide, by decide⟩

theorem witness_QuiescentIffNoStepEnabled :
    ((running .k e7).fifo .h2d).valid = true ∧ (running .k e7).params.syncEager = false ∧
    ((running .k e7).fifo .h2d).Eager := ⟨rfl, rfl, rfl, rfl, rfl, rfl⟩

/-- A PUT from "running, empty", and a step of the sequencer. -/
theorem witness_StepKeepsInvariant :
    ((running .k (ring8 0#16 0#16 [])).Inv ∧ (running .k v43w).Inv) ∧
    ∃ t, step putWaiting = .next t :=
  ⟨⟨inv_running_empty .k, inv_running_v43w .k⟩, next_of_isSome (by decide)⟩

/-- V43-4 and V43-2; a recorded fault through a later command. -/
theorem witness_FaultBitIsSticky :
    (portRole .c0 = some (.h2d, .consumer) ∧
      ∃ t, exec (.markC 3#16) (running .c0 v43r) = .next t ∧
        ∃ r, (running .c0 v43r).Answered t r ∧ r.status = .contract) ∧
    (∃ t, step { putWaiting with fifo0 := { ring8 0#16 0#16 [] with fault := true } } = .next t) ∧
    putWaiting.takeTurn.1 ≠ .hardReset ∧
    (({ putWaiting with fifo0 := { ring8 0#16 0#16 [] with fault := true } } : State).fifo .h2d).fault = true :=
  ⟨⟨rfl, _, rfl, _, rfl, rfl⟩, next_of_isSome (by decide), by decide, rfl⟩

theorem witness_ConstructionIsPermanent :
    (∃ t, step putWaiting = .next t) ∧ putWaiting.takeTurn.1 ≠ .hardReset ∧ (putWaiting.fifo .h2d).valid = true ∧
    (∃ t, step { putWaiting with fifo1 := { Fifo.reset with failed := true } } = .next t) ∧
    (({ putWaiting with fifo1 := { Fifo.reset with failed := true } } : State).fifo .d2h).failed = true :=
  ⟨next_of_isSome (by decide), by decide, rfl, next_of_isSome (by decide), rfl⟩

/-- A published window nothing was written into, with a GET word waiting at C0. -/
def getWaiting (x : Fifo) : State :=
  { running .k x with
    portC0 := { words := [0x10000000#32], bytes := [], response := none }
    turns := [.port .c0] }

/-- Each index moved by a command of its own side. -/
theorem witness_IndexOwnership :
    (nextOf (step putWaiting)).map (fun t => decide ((t.fifo .h2d).putIndex ≠ (putWaiting.fifo .h2d).putIndex)) =
      some true ∧
    (nextOf (step (getWaiting e7))).map (fun t => decide ((t.fifo .h2d).getIndex ≠ e7.getIndex)) = some true := by decide

theorem witness_EventsGrowAndLinkIsControls :
    (∃ t, step putWaiting = .next t) ∧ putWaiting.takeTurn.1 ≠ .hardReset ∧
    (nextOf (step (State.reset.withFetchWord 32 0x90000001))).map (fun t => t.link) = some .active :=
  ⟨next_of_isSome (by decide), by decide, by decide⟩

/-- One byte, and as many as fit. -/
theorem witness_BulkRoundTrip :
    (running .k (ring8 0#16 0#16 [])).FifoInv .h2d ∧ (ring8 0#16 0#16 []).valid = true ∧
    (ring8 0#16 0#16 []).Eager ∧ (ring8 0#16 0#16 []).putIndex = (ring8 0#16 0#16 []).getIndex ∧
    (running .k (ring8 0#16 0#16 [])).params.syncEager = false ∧
    (running .k (ring8 0#16 0#16 [])).paused = false ∧ (running .k (ring8 0#16 0#16 [])).uartUp = true ∧
    ([1#8] : List Byte) ≠ [] ∧ [1#8, 2#8, 3#8, 4#8, 5#8, 6#8, 7#8].length < (ring8 0#16 0#16 []).capacity.toNat :=
  ⟨fifoInv_empty8 .k, rfl, ⟨rfl, rfl, rfl, rfl⟩, rfl, rfl, rfl, rfl, by decide, by decide⟩

/-- Room for a window, and a FIFO that is full. -/
theorem witness_FullWindowPublishKeepsReservedSlot :
    ((running .p0 v43w).FifoInv .h2d ∧ (running .p0 v43w).Admitted .h2d .producer .move ∧ 0 < v43w.writeRun) ∧
    ((running .p0 (ring8 7#16 0#16 [])).FifoInv .h2d ∧
      (running .p0 (ring8 7#16 0#16 [])).Admitted .h2d .producer .move ∧ (ring8 7#16 0#16 []).writeRun = 0) := by
  refine ⟨⟨fifoInv_v43w .p0, ⟨rfl, rfl⟩, by decide⟩,
    ⟨shape_full8, fun _ => ordered_of (by decide) rfl rfl, windows_of rfl rfl, fun h => ?_⟩, ⟨rfl, rfl⟩, by decide⟩
  simp [running, State.reset, Params.default] at h

/-- The fault is reachable from a state that meets the invariant. -/
theorem witness_StepNeverRefuses :
    (getWaiting (ring8 3#16 6#16 [])).Inv ∧
    faultOf (step (getWaiting (ring8 3#16 6#16 []))) = some .unwrittenByte := by
  refine ⟨⟨⟨shape_v431, fun _ => ordered_v431, windows_of rfl rfl, fun h => ?_⟩,
    ⟨shape_empty16, fun _ => ordered_empty16, windows_of rfl rfl, fun h => ?_⟩,
    { sequenceInv_running .k (ring8 3#16 6#16 []) with }⟩, by decide⟩
  · simp [getWaiting, running, State.reset, Params.default] at h
  · simp [getWaiting, running, State.reset, Params.default] at h

end Sys2Proof.Tests
end

section
/-! Turns and acceptance (spec/00_scope.md R8, spec/30_encoding.md R60 and R63, spec/60_exceptions.md R198): whose turn
the next step takes, what `step` is in each kind of turn, and what accepting a command leaves unchanged. -/

namespace Sys2Proof.Machine

open Sys2Proof

/-! ## Whose turn it is -/

theorem State.takeTurn_of_turns_cons {s : State} {m : Move} {rest : List Move} (h : s.turns = m :: rest) :
    s.takeTurn = (m, { s with turns := rest }) := by
  simp [State.takeTurn, h]

theorem State.takeTurn_of_turns_nil {s : State} (h : s.turns = []) :
    s.takeTurn = (Config.freeMove s.freeTurns, { s with freeTurns := s.freeTurns + 1 }) := by
  simp [State.takeTurn, h]

/-! ## One step, by the kind of its turn -/

theorem step_of_port_turn {s t : State} {p : PortId} (h : s.takeTurn = (.port p, t)) : step s = portTurn p t := by
  simp [step, h]

theorem step_of_internal_turn {s t : State} {m : Move} (h : s.takeTurn = (m, t)) (hm : ∀ p, m ≠ .port p) :
    step s = .next (internalTurn m t) := by
  cases m with
  | port p => exact absurd rfl (hm p)
  | launchPut f | landPut f | launchGet f | landGet f | fsm | hardReset => simp [step, h]

/-- R63: a whole command at the head of a port's input is carried out once its words and payload are taken. -/
theorem portTurn_of_decode_instr {s : State} {p : PortId} {i : Instr} {words : List Word} {bytes : List Byte}
    (h : decode (s.port p).words (s.port p).bytes = .instr i words bytes) :
    portTurn p s = exec i (s.accept p words bytes) := by
  simp [portTurn, State.fetch, h]

/-! ## What accepting a command leaves unchanged -/

theorem State.sameControl_accept (s : State) (p : PortId) (words : List Word) (bytes : List Byte) :
    s.SameControl (s.accept p words bytes) := by
  constructor <;> simp

/-- Settles O4: a port's turn with a whole command is `exec` of it after `accept`, any other turn is its internal step. -/
theorem stepRunsDecodedInstruction : Obligations.StepRunsDecodedInstruction := by
  refine ⟨fun s t p i words bytes hturn hdec _ => ?port, fun s t m hturn hm => ?internal,
    fun s m rest => State.takeTurn_of_turns_cons, fun s => State.takeTurn_of_turns_nil,
    fun s p words bytes => ?accept⟩
  case port => rw [step_of_port_turn hturn, portTurn_of_decode_instr hdec]
  case internal => exact step_of_internal_turn hturn hm
  case accept =>
    exact ⟨s.accept_active p words bytes, by simp, by simp, fun q => s.accept_port_ne words bytes,
      s.fifo_accept p words bytes, s.sameControl_accept p words bytes, s.accept_turns p words bytes,
      s.accept_freeTurns p words bytes⟩

end Sys2Proof.Machine
end

section
/-! LINE_STATE accepted at port K in REST (spec/46_control.md R150, R163): its exact next state for each value of the
link assertion (spec/00_scope.md R5). -/

namespace Sys2Proof.Machine

open Sys2Proof

/-- R162: at port K in REST a control command goes on to its own rule. -/
theorem State.atControlInRest_accepted {s : State} (hk : s.active = .k) (hrest : s.fsm = .rest) (k : Result) :
    s.atControlInRest k = k := by
  simp [State.atControlInRest, State.atControl, hk, hrest]

theorem State.done_eq_okWith (s : State) (val : BitVec 24) : s.done val = .next (s.respond (okWith val)) := rfl

/-- R150: an asserted link is `Active` and the bridge is not paused. -/
theorem exec_lineState_asserted {s : State} {dtr rts : Bool} (hk : s.active = .k) (hrest : s.fsm = .rest)
    (hlink : linkAsserted s.params.linkAssert dtr rts = true) :
    exec (.lineState dtr rts) s =
      .next (State.respond { s with link := .active, paused := false } (okWith 0#24)) := by
  simp [exec, execLineState, State.atControlInRest_accepted hk hrest, hlink, State.done_eq_okWith]

/-- R150, R163: a deasserted link is `Inactive`, the bridge is paused and `activity_clear` goes out. -/
theorem exec_lineState_deasserted {s : State} {dtr rts : Bool} (hk : s.active = .k) (hrest : s.fsm = .rest)
    (hlink : linkAsserted s.params.linkAssert dtr rts = false) :
    exec (.lineState dtr rts) s =
      .next ((State.emit { s with link := .inactive, paused := true } .activityClear).respond (okWith 0#24)) := by
  simp [exec, execLineState, State.atControlInRest_accepted hk hrest, hlink, State.done_eq_okWith]

/-- R5: the default `link_assert_fn`. -/
theorem linkAsserted_default (dtr rts : Bool) : linkAsserted Params.default.linkAssert dtr rts = (dtr || rts) := by
  cases dtr <;> cases rts <;> rfl

/-- Settles O28, by the value of the link assertion. -/
theorem lineStateAppliesEvent : Obligations.LineStateAppliesEvent := by
  refine ⟨fun s dtr rts hk hrest => ?_, linkAsserted_default⟩
  cases hlink : linkAsserted s.params.linkAssert dtr rts with
  | true =>
    exact ⟨_, exec_lineState_asserted hk hrest hlink, State.respond_response _ _, fun _ => by simp, nofun⟩
  | false =>
    exact ⟨_, exec_lineState_deasserted hk hrest hlink, State.respond_response _ _, nofun, fun _ => by simp⟩

end Sys2Proof.Machine
end

section
/-! Index arithmetic of one FIFO as distances on its ring (spec/10_state.md R17, R19; spec/30_encoding.md R71): the
distance `Fifo.span` between two indices, and how it changes when an end of it advances. -/

namespace Sys2Proof.Machine

open Sys2Proof

theorem Fifo.occP_toNat (x : Fifo) : x.occP.toNat = x.span x.putIndex x.getSeen := rfl
theorem Fifo.occC_toNat (x : Fifo) : x.occC.toNat = x.span x.putSeen x.getIndex := rfl
theorem Fifo.occTrue_toNat (x : Fifo) : x.occTrue.toNat = x.span x.putIndex x.getIndex := rfl

@[simp] theorem Fifo.span_self (x : Fifo) (a : Index) : x.span a a = 0 := by simp [Fifo.span]

theorem Fifo.advance_le_mask (x : Fifo) (a n : Index) : (x.advance a n).toNat ≤ x.mask.toNat := and_mask_le _ _

namespace Fifo.Shape

variable {x : Fifo} {d : Nat} {a b c n : Index}

/-- R11: a constructed FIFO has at least one slot, and no more than 2^16. -/
theorem capacity_bounds (h : x.Shape d) (hv : x.valid = true) : 1 ≤ x.capacity.toNat ∧ x.capacity.toNat ≤ 65536 := by
  obtain ⟨k, hk, hc⟩ := h.powerOfTwo hv
  rw [hc]
  exact ⟨Nat.one_le_two_pow, Nat.pow_le_pow_right (by omega) hk⟩

theorem span_lt_capacity (h : x.Shape d) (hv : x.valid = true) (a b : Index) : x.span a b < x.capacity.toNat := by
  have hle := and_mask_le (a - b) x.mask
  have hmask := h.maskIs hv
  unfold Fifo.span
  omega

/-- R19: the distance from `b` up to `a`, going round the ring where `a` stands below `b`. -/
theorem span_eq (h : x.Shape d) (hv : x.valid = true) (ha : a.toNat ≤ x.mask.toNat) (hb : b.toNat ≤ x.mask.toNat) :
    x.span a b = if b.toNat ≤ a.toNat then a.toNat - b.toNat else a.toNat + x.capacity.toNat - b.toNat := by
  obtain ⟨k, hk, hc, hm⟩ := h.capacity_pow hv
  obtain ⟨q, hq⟩ : 2 ^ k ∣ 2 ^ 16 := Nat.pow_dvd_pow 2 hk
  have hspan : x.span a b = (65536 - b.toNat + a.toNat) % 2 ^ k := by
    rw [Fifo.span, and_mask_toNat _ _ hm, BitVec.toNat_sub, Nat.mod_mod_of_dvd _ ⟨q, hq⟩]
  have hb16 := b.isLt
  rw [hspan, hc]
  split
  · rw [show 65536 - b.toNat + a.toNat = a.toNat - b.toNat + 2 ^ k * q by omega, Nat.add_mul_mod_self_left]
    exact Nat.mod_eq_of_lt (by omega)
  · obtain ⟨p, rfl⟩ : ∃ p, q = p + 1 := Nat.exists_eq_succ_of_ne_zero (by rintro rfl; simp at hq)
    rw [show 65536 - b.toNat + a.toNat = a.toNat + 2 ^ k - b.toNat + 2 ^ k * p by rw [Nat.mul_succ] at hq; omega,
      Nat.add_mul_mod_self_left]
    exact Nat.mod_eq_of_lt (by omega)

/-- R13, R71 (a): an advance by less than the capacity wraps at most once. -/
theorem advance_toNat (h : x.Shape d) (hv : x.valid = true) (ha : a.toNat ≤ x.mask.toNat)
    (hn : n.toNat < x.capacity.toNat) :
    (x.advance a n).toNat =
      if a.toNat + n.toNat < x.capacity.toNat then a.toNat + n.toNat else a.toNat + n.toNat - x.capacity.toNat := by
  have hmask := h.maskIs hv
  rw [h.advance_mod hv]
  split
  · exact Nat.mod_eq_of_lt ‹_›
  · rw [Nat.mod_eq_sub_mod (by omega)]
    exact Nat.mod_eq_of_lt (by omega)

theorem advance_zero (h : x.Shape d) (hv : x.valid = true) (ha : a.toNat ≤ x.mask.toNat) :
    x.advance a 0#16 = a := by
  have hcap := h.capacity_bounds hv
  have hmask := h.maskIs hv
  apply BitVec.eq_of_toNat_eq
  rw [h.advance_toNat hv ha (by simp; omega), if_pos (by simp; omega)]
  simp

/-- R19: the distances of three indices in a row add up while the way is shorter than the ring. -/
theorem span_add_span (h : x.Shape d) (hv : x.valid = true) (ha : a.toNat ≤ x.mask.toNat) (hb : b.toNat ≤ x.mask.toNat)
    (hc : c.toNat ≤ x.mask.toNat) (hlt : x.span a b + x.span b c < x.capacity.toNat) :
    x.span a c = x.span a b + x.span b c := by
  have hmask := h.maskIs hv
  rw [h.span_eq hv ha hb, h.span_eq hv hb hc] at hlt ⊢
  rw [h.span_eq hv ha hc]
  split_ifs at hlt ⊢ <;> omega

/-- R19: an index on the way from `b` up to `a` splits it. -/
theorem span_split (h : x.Shape d) (hv : x.valid = true) (ha : a.toNat ≤ x.mask.toNat) (hb : b.toNat ≤ x.mask.toNat)
    (hc : c.toNat ≤ x.mask.toNat) (hle : x.span c b ≤ x.span a b) : x.span a b = x.span a c + x.span c b := by
  have hmask := h.maskIs hv
  rw [h.span_eq hv hc hb, h.span_eq hv ha hb] at hle ⊢
  rw [h.span_eq hv ha hc]
  split_ifs at hle ⊢ <;> omega

/-- R71: an advance of the upper end lengthens the way, while it stays shorter than the ring. -/
theorem span_advance_upper (h : x.Shape d) (hv : x.valid = true) (ha : a.toNat ≤ x.mask.toNat)
    (hb : b.toNat ≤ x.mask.toNat) (hlt : x.span a b + n.toNat < x.capacity.toNat) :
    x.span (x.advance a n) b = x.span a b + n.toNat := by
  have hmask := h.maskIs hv
  rw [h.span_eq hv ha hb] at hlt ⊢
  rw [h.span_eq hv (x.advance_le_mask a n) hb, h.advance_toNat hv ha (by omega)]
  split_ifs at hlt ⊢ <;> omega

/-- R71: an advance of the lower end, no further than the upper one, shortens the way. -/
theorem span_advance_lower (h : x.Shape d) (hv : x.valid = true) (ha : a.toNat ≤ x.mask.toNat)
    (hb : b.toNat ≤ x.mask.toNat) (hle : n.toNat ≤ x.span a b) :
    x.span a (x.advance b n) + n.toNat = x.span a b := by
  have hmask := h.maskIs hv
  have hlt := h.span_lt_capacity hv a b
  rw [h.span_eq hv ha hb] at hle hlt ⊢
  rw [h.span_eq hv ha (x.advance_le_mask b n), h.advance_toNat hv hb (by split_ifs at hle hlt <;> omega)]
  split_ifs at hle hlt ⊢ <;> omega

end Fifo.Shape

/-- R17, R19: in an ordered FIFO the occupancies are sums of the ring's parts, and never fill it. -/
theorem Fifo.Ordered.occupancies {x : Fifo} {d : Nat} (ho : x.Ordered) (h : x.Shape d) (hv : x.valid = true) :
    x.occTrue.toNat = x.span x.putIndex x.putSeen + x.occC.toNat ∧
      x.occP.toNat = x.occTrue.toNat + x.span x.getIndex x.getSeen ∧ x.occP.toNat + 1 ≤ x.capacity.toNat := by
  obtain ⟨hput, hget, hputSeen, hgetSeen⟩ := h.indices
  have hring := ho.ring
  have htrue := h.span_add_span hv hput hputSeen hget (by omega)
  have hp := h.span_add_span hv hput hget hgetSeen (by omega)
  simp only [Fifo.occTrue_toNat, Fifo.occP_toNat, Fifo.occC_toNat]
  omega

/-- Settles O49: each lagging view differs from the true occupancy by a part of the ring. -/
theorem laggingViewIsConservative : Obligations.LaggingViewIsConservative := by
  intro x depth hv h ho
  obtain ⟨htrue, hp, hlt⟩ := ho.occupancies h hv
  omega

end Sys2Proof.Machine
end

section
/-! The invariant of one FIFO as a predicate on the FIFO alone, and every change of it that keeps the invariant:
storage, windows, index moves (spec/30_encoding.md R71), the crossing of an index (spec/45_cdc_sync.md R140 to R144),
construction and RESET (spec/40_lifecycle.md R80, R81). -/

namespace Sys2Proof.Machine

open Sys2Proof

/-- R71, R144: the FIFO with `put_index` advanced by `n`. -/
def Fifo.published (x : Fifo) (eager : Bool) (n : Index) : Fifo :=
  { x with
    putIndex := x.advance x.putIndex n
    putSeen := if eager then x.advance x.putIndex n else x.putSeen }

/-- R71, R144: the FIFO with `get_index` advanced by `n`. -/
def Fifo.retired (x : Fifo) (eager : Bool) (n : Index) : Fifo :=
  { x with
    getIndex := x.advance x.getIndex n
    getSeen := if eager then x.advance x.getIndex n else x.getSeen }

theorem State.movePut_eq (s : State) (f : FifoId) (n : Index) :
    s.movePut f n = s.setFifo f ((s.fifo f).published s.params.syncEager n) := rfl

theorem State.moveGet_eq (s : State) (f : FifoId) (n : Index) :
    s.moveGet f n = s.setFifo f ((s.fifo f).retired s.params.syncEager n) := rfl

/-- R10 to R20, R144: `State.FifoInv` for a FIFO over `depth` bytes, with `SYNC_EAGER` or not. -/
structure Fifo.Sound (depth : Nat) (eager : Bool) (x : Fifo) : Prop where
  shape : x.Shape depth
  ordered : x.valid = true → x.Ordered
  windows : x.Windows
  eager : eager = true → x.Eager

theorem State.fifoInv_iff_sound (s : State) (f : FifoId) :
    s.FifoInv f ↔ (s.fifo f).Sound (s.depth f) s.params.syncEager :=
  ⟨fun ⟨h, ho, hw, he⟩ => ⟨h, ho, hw, he⟩, fun ⟨h, ho, hw, he⟩ => ⟨h, ho, hw, he⟩⟩

/-- R12: nothing is written in a FIFO that is not constructed. -/
theorem Fifo.Shape.storage_eq_nil {x : Fifo} {d : Nat} (h : x.Shape d) (hv : x.valid = false) : x.storage = [] := by
  obtain ⟨hcap, -⟩ := h.unconstructed hv
  refine List.eq_nil_iff_forall_not_mem.2 fun c hc => ?_
  simpa [hcap] using h.storageInside c hc

theorem Fifo.windows_of_closed {x : Fifo} (hr : x.rdLease = none) (hw : x.wrLease = none) : x.Windows :=
  ⟨by simp [hr], by simp [hw]⟩

namespace Fifo.Sound

variable {x : Fifo} {d : Nat} {e : Bool} {n : Index}

theorem reset (d : Nat) (e : Bool) : Fifo.reset.Sound d e where
  shape := by constructor <;> simp [Fifo.reset, Memory.wf, Memory.sortedFrom]
  ordered := by simp [Fifo.reset]
  windows := Fifo.windows_of_closed rfl rfl
  eager := fun _ => ⟨rfl, rfl, rfl, rfl⟩

/-! ### Flags, storage, windows -/

theorem withFault (h : x.Sound d e) (b : Bool) : ({ x with fault := b } : Fifo).Sound d e :=
  ⟨{ h.shape with }, fun hv => { h.ordered hv with }, { h.windows with }, h.eager⟩

/-- R80: a failed INIT marks a FIFO that is not constructed. -/
theorem withFailed (h : x.Sound d e) (hv : x.valid = false) : ({ x with failed := true } : Fifo).Sound d e :=
  ⟨{ h.shape with flags := by simp [hv] }, fun hv => { h.ordered hv with }, { h.windows with }, h.eager⟩

theorem withStorage (h : x.Sound d e) {m : Memory} (hm : Memory.wf m = true)
    (hin : ∀ c ∈ m, c.1 < x.capacity.toNat) : ({ x with storage := m } : Fifo).Sound d e :=
  ⟨{ h.shape with storageSorted := hm, storageInside := hin }, fun hv => { h.ordered hv with }, { h.windows with },
    h.eager⟩

/-- R115: a byte written below the capacity. -/
theorem withByte (h : x.Sound d e) {a : Nat} (b : Byte) (ha : a < x.capacity.toNat) :
    ({ x with storage := Memory.write x.storage a b } : Fifo).Sound d e := by
  refine h.withStorage (Memory.wf_write a b h.shape.storageSorted) fun c hc => ?_
  rcases Memory.mem_write hc with rfl | hc
  · exact ha
  · exact h.shape.storageInside c hc

theorem withRdLease (h : x.Sound d e) (hv : x.valid = true) {l : Option Lease}
    (hl : ∀ w ∈ l, w.ptr = x.getIndex ∧ 1 ≤ w.run.toNat ∧ w.run.toNat ≤ x.occC.toNat ∧
      w.ptr.toNat + w.run.toNat ≤ x.capacity.toNat) : ({ x with rdLease := l } : Fifo).Sound d e :=
  ⟨{ h.shape with unconstructed := by simp [hv] }, fun hv => { h.ordered hv with }, { h.windows with read := hl },
    h.eager⟩

theorem withWrLease (h : x.Sound d e) (hv : x.valid = true) {l : Option Lease}
    (hl : ∀ w ∈ l, w.ptr = x.putIndex ∧ 1 ≤ w.run.toNat ∧ w.run.toNat ≤ x.freeP ∧
      w.ptr.toNat + w.run.toNat ≤ x.capacity.toNat) : ({ x with wrLease := l } : Fifo).Sound d e :=
  ⟨{ h.shape with unconstructed := by simp [hv] }, fun hv => { h.ordered hv with }, { h.windows with write := hl },
    h.eager⟩

/-! ### Index moves -/

/-- R144: the consumer's copy after an advance of `put_index` that goes nowhere. -/
theorem putSeen_eq (h : x.Sound d e) : (if e then x.putIndex else x.putSeen) = x.putSeen := by
  cases e with
  | false => rfl
  | true => exact (h.eager rfl).2.2.1.symm

/-- R144: the producer's copy after an advance of `get_index` that goes nowhere. -/
theorem getSeen_eq (h : x.Sound d e) : (if e then x.getIndex else x.getSeen) = x.getSeen := by
  cases e with
  | false => rfl
  | true => exact (h.eager rfl).2.2.2.symm

/-- R100: publishing nothing changes nothing. -/
theorem published_zero (h : x.Sound d e) (hv : x.valid = true) : x.published e 0#16 = x := by
  simp [Fifo.published, h.shape.advance_zero hv h.shape.indices.1, h.putSeen_eq]

/-- R101: retiring nothing changes nothing. -/
theorem retired_zero (h : x.Sound d e) (hv : x.valid = true) : x.retired e 0#16 = x := by
  simp [Fifo.retired, h.shape.advance_zero hv h.shape.indices.2.1, h.getSeen_eq]

theorem published_shape (h : x.Shape d) (hv : x.valid = true) (e : Bool) (n : Index) : (x.published e n).Shape d :=
  { h with
    unconstructed := by simp [Fifo.published, hv]
    indices := by
      obtain ⟨-, hget, hputSeen, hgetSeen⟩ := h.indices
      refine ⟨x.advance_le_mask _ _, hget, ?_, hgetSeen⟩
      cases e
      · exact hputSeen
      · exact x.advance_le_mask _ _ }

theorem retired_shape (h : x.Shape d) (hv : x.valid = true) (e : Bool) (n : Index) : (x.retired e n).Shape d :=
  { h with
    unconstructed := by simp [Fifo.retired, hv]
    indices := by
      obtain ⟨hput, -, hputSeen, hgetSeen⟩ := h.indices
      refine ⟨hput, x.advance_le_mask _ _, hputSeen, ?_⟩
      cases e
      · exact hgetSeen
      · exact x.advance_le_mask _ _ }

/-- R19, R20: publishing no more than is free keeps the invariant, once the write window is closed. -/
theorem published (h : x.Sound d e) (hv : x.valid = true) (hw : x.wrLease = none) (hn : n.toNat ≤ x.freeP) :
    (x.published e n).Sound d e := by
  obtain ⟨hput, hget, hputSeen, -⟩ := h.shape.indices
  obtain ⟨hring, hgetMail, hputMail⟩ := h.ordered hv
  obtain ⟨htrue, hp, hlt⟩ := (h.ordered hv).occupancies h.shape hv
  rw [Fifo.occC_toNat, Fifo.occTrue_toNat] at htrue
  rw [Fifo.occTrue_toNat] at hp
  unfold Fifo.freeP at hn
  have hown := h.shape.span_advance_upper (n := n) hv hput hputSeen (by omega)
  have hall := h.shape.span_advance_upper (n := n) hv hput hget (by omega)
  have hway : x.span (x.advance x.putIndex n) (x.published e n).putSeen +
      x.span (x.published e n).putSeen x.getIndex = x.span x.putIndex x.getIndex + n.toNat ∧
      x.span x.putSeen x.getIndex ≤ x.span (x.published e n).putSeen x.getIndex := by
    cases e with
    | false => simp only [Fifo.published, Bool.false_eq_true, if_false]; omega
    | true => simp only [Fifo.published, if_true, Fifo.span_self]; omega
  refine ⟨published_shape h.shape hv e n, fun _ => ⟨?ring, hgetMail, fun v hm => ?mail⟩,
    ⟨fun l hl => ?read, by simp [Fifo.published, hw]⟩, ?eager⟩
  case ring =>
    change x.span x.getIndex x.getSeen + x.span (x.published e n).putSeen x.getIndex +
      x.span (x.advance x.putIndex n) (x.published e n).putSeen + 1 ≤ x.capacity.toNat
    omega
  case mail =>
    cases e with
    | false => exact (hputMail v hm).trans (by change _ ≤ x.span (x.advance x.putIndex n) x.putSeen; omega)
    | true => simp [Fifo.published, (h.eager rfl).1] at hm
  case read =>
    obtain ⟨hptr, hrun, hocc, hend⟩ := h.windows.read l hl
    exact ⟨hptr, hrun, hocc.trans hway.2, hend⟩
  case eager =>
    rintro rfl
    obtain ⟨hnoPut, hnoGet, -, hgetSeen⟩ := h.eager rfl
    exact ⟨hnoPut, hnoGet, rfl, hgetSeen⟩

/-- R19, R20: retiring no more than the consumer sees keeps the invariant, once the read window is closed. -/
theorem retired (h : x.Sound d e) (hv : x.valid = true) (hr : x.rdLease = none) (hn : n.toNat ≤ x.occC.toNat) :
    (x.retired e n).Sound d e := by
  obtain ⟨hput, hget, hputSeen, hgetSeen⟩ := h.shape.indices
  obtain ⟨hring, hgetMail, hputMail⟩ := h.ordered hv
  obtain ⟨htrue, hp, hlt⟩ := (h.ordered hv).occupancies h.shape hv
  rw [Fifo.occC_toNat] at hn htrue
  rw [Fifo.occTrue_toNat] at hp htrue
  have hleft := h.shape.span_advance_lower (n := n) hv hputSeen hget hn
  have hown := h.shape.span_advance_upper (n := n) hv hget hgetSeen (by omega)
  have hall := h.shape.span_advance_lower (n := n) hv hput hget (by omega)
  have hway : x.span (x.advance x.getIndex n) (x.retired e n).getSeen ≤ x.span x.getIndex x.getSeen + n.toNat ∧
      x.span x.putIndex (x.retired e n).getSeen ≤ x.occP.toNat := by
    cases e with
    | false => simp only [Fifo.retired, Bool.false_eq_true, if_false, ← Fifo.occP_toNat]; omega
    | true => simp only [Fifo.retired, if_true, Fifo.span_self]; omega
  refine ⟨retired_shape h.shape hv e n, fun _ => ⟨?ring, fun v hm => ?mail, hputMail⟩,
    ⟨by simp [Fifo.retired, hr], fun l hl => ?write⟩, ?eager⟩
  case ring =>
    change x.span (x.advance x.getIndex n) (x.retired e n).getSeen + x.span x.putSeen (x.advance x.getIndex n) +
      x.span x.putIndex x.putSeen + 1 ≤ x.capacity.toNat
    omega
  case mail =>
    cases e with
    | false => exact (hgetMail v hm).trans (by change _ ≤ x.span (x.advance x.getIndex n) x.getSeen; omega)
    | true => simp [Fifo.retired, (h.eager rfl).2.1] at hm
  case write =>
    obtain ⟨hptr, hrun, hfree, hend⟩ := h.windows.write l hl
    exact ⟨hptr, hrun, hfree.trans (Nat.sub_le_sub_left hway.2 _), hend⟩
  case eager =>
    rintro rfl
    obtain ⟨hnoPut, hnoGet, hputSeen, -⟩ := h.eager rfl
    exact ⟨hnoPut, hnoGet, hputSeen, rfl⟩

/-! ### Crossings -/

/-- R140. -/
theorem launchPut (h : x.Sound d false) (hv : x.valid = true) :
    ({ x with putMail := some x.putIndex } : Fifo).Sound d false where
  shape := { h.shape with
    unconstructed := by simp [hv]
    mails := ⟨by simpa using h.shape.indices.1, h.shape.mails.2⟩ }
  ordered := fun _ => { h.ordered hv with putMail := by rintro v ⟨⟩; exact Nat.le_refl _ }
  windows := { h.windows with }
  eager := nofun

/-- R142. -/
theorem launchGet (h : x.Sound d false) (hv : x.valid = true) :
    ({ x with getMail := some x.getIndex } : Fifo).Sound d false where
  shape := { h.shape with
    unconstructed := by simp [hv]
    mails := ⟨h.shape.mails.1, by simpa using h.shape.indices.2.1⟩ }
  ordered := fun _ => { h.ordered hv with getMail := by rintro v ⟨⟩; exact Nat.le_refl _ }
  windows := { h.windows with }
  eager := nofun

/-- R141: the consumer's copy moves up to an index on the way to `put_index`, so the consumer sees no less. -/
theorem landPut (h : x.Sound d e) (hv : x.valid = true) {v : Index} (hm : x.putMail = some v) :
    ({ x with putSeen := v, putMail := none } : Fifo).Sound d e := by
  obtain ⟨hput, hget, hputSeen, hgetSeen⟩ := h.shape.indices
  obtain ⟨hring, hgetMail, hputMail⟩ := h.ordered hv
  have hvle := h.shape.mails.1 v hm
  have hsplit := h.shape.span_split hv hput hputSeen hvle (hputMail v hm)
  have hsum := h.shape.span_add_span hv hvle hputSeen hget (by omega)
  refine ⟨{ h.shape with
      unconstructed := by simp [hv], indices := ⟨hput, hget, hvle, hgetSeen⟩, mails := ⟨by simp, h.shape.mails.2⟩ },
    fun _ => ⟨?ring, hgetMail, by simp⟩, ⟨fun l hl => ?read, h.windows.write⟩, fun he => ?eager⟩
  case ring =>
    change x.span x.getIndex x.getSeen + x.span v x.getIndex + x.span x.putIndex v + 1 ≤ x.capacity.toNat
    omega
  case read =>
    obtain ⟨hptr, hrun, hocc, hend⟩ := h.windows.read l hl
    rw [Fifo.occC_toNat] at hocc
    exact ⟨hptr, hrun, by change _ ≤ x.span v x.getIndex; omega, hend⟩
  case eager => simp [(h.eager he).1] at hm

/-- R143: the producer's copy moves up to an index on the way to `get_index`, so the producer sees no less free. -/
theorem landGet (h : x.Sound d e) (hv : x.valid = true) {v : Index} (hm : x.getMail = some v) :
    ({ x with getSeen := v, getMail := none } : Fifo).Sound d e := by
  obtain ⟨hput, hget, hputSeen, hgetSeen⟩ := h.shape.indices
  obtain ⟨hring, hgetMail, hputMail⟩ := h.ordered hv
  obtain ⟨htrue, hp, hlt⟩ := (h.ordered hv).occupancies h.shape hv
  have hvle := h.shape.mails.2 v hm
  have hsplit := h.shape.span_split hv hget hgetSeen hvle (hgetMail v hm)
  rw [Fifo.occTrue_toNat] at hp
  have hsum := h.shape.span_add_span hv hput hget hvle (by omega)
  refine ⟨{ h.shape with
      unconstructed := by simp [hv], indices := ⟨hput, hget, hputSeen, hvle⟩, mails := ⟨h.shape.mails.1, by simp⟩ },
    fun _ => ⟨?ring, by simp, hputMail⟩, ⟨h.windows.read, fun l hl => ?write⟩, fun he => ?eager⟩
  case ring =>
    change x.span x.getIndex v + x.span x.putSeen x.getIndex + x.span x.putIndex x.putSeen + 1 ≤ x.capacity.toNat
    omega
  case write =>
    obtain ⟨hptr, hrun, hfree, hend⟩ := h.windows.write l hl
    exact ⟨hptr, hrun, hfree.trans (Nat.sub_le_sub_left (by change x.span x.putIndex v ≤ _; omega) _), hend⟩
  case eager => simp [(h.eager he).2.1] at hm

/-! ### Construction and RESET -/

/-- R81, R82. -/
theorem clear (h : x.Sound d e) : x.clear.Sound d e := by
  unfold Fifo.clear
  split
  case isFalse => exact h
  case isTrue hv =>
    have hcap := h.shape.capacity_bounds hv
    exact ⟨{ h.shape with
        unconstructed := by simp [hv], indices := by simp, mails := by simp },
      fun _ => ⟨by simpa using hcap.1, by simp, by simp⟩, Fifo.windows_of_closed rfl rfl, fun _ => ⟨rfl, rfl, rfl, rfl⟩⟩

end Fifo.Sound

/-- R72: the test of INIT accepts exactly the powers of two. -/
theorem isPowerOfTwo_iff (c : BitVec 24) : isPowerOfTwo c = true ↔ ∃ k, c.toNat = 2 ^ k := by
  by_cases hc : c = 0#24
  · subst hc
    simp [isPowerOfTwo, eq_comm (a := 0)]
  have hpos : c.toNat ≠ 0 := fun h => hc (BitVec.eq_of_toNat_eq h)
  have hpred : (c - 1#24).toNat = c.toNat - 1 := by bv_omega
  rw [isPowerOfTwo, Bool.and_eq_true, decide_eq_true_eq, decide_eq_true_eq, and_iff_right hc, ← BitVec.toNat_inj,
    BitVec.toNat_and, hpred]
  exact Nat.and_sub_one_eq_zero_iff_isPowerOfTwo hpos

/-- R11: the capacity an INIT within 2^16 sets. -/
theorem Fifo.construct_capacity (x : Fifo) {c : BitVec 24} (hle : c.toNat ≤ 65536) :
    (x.construct c).capacity.toNat = c.toNat := by
  rw [Fifo.construct, BitVec.toNat_setWidth]
  exact Nat.mod_eq_of_lt (by omega)

/-- R11: the mask an INIT within 2^16 sets. -/
theorem Fifo.construct_mask (x : Fifo) {c : BitVec 24} (hpos : 1 ≤ c.toNat) (hle : c.toNat ≤ 65536) :
    (x.construct c).mask.toNat + 1 = c.toNat := by
  have hpred : (c - 1#24).toNat = c.toNat - 1 := by bv_omega
  rw [Fifo.construct, BitVec.toNat_setWidth, hpred, Nat.mod_eq_of_lt (by omega)]
  omega

/-- R80: a construction over storage in which nothing is written. -/
theorem Fifo.Sound.construct {x : Fifo} {d k : Nat} {e : Bool} {c : BitVec 24} (h : x.Sound d e)
    (hv : x.valid = false) (hf : x.failed = false) (hc : c.toNat = 2 ^ k) (hd : c.toNat ≤ d) (hd16 : d ≤ 65536) :
    (x.construct c).Sound d e := by
  have hpos : 1 ≤ c.toNat := hc ▸ Nat.one_le_two_pow
  have hcap := x.construct_capacity (hd.trans hd16)
  have hmask := x.construct_mask hpos (hd.trans hd16)
  have hnil : (x.construct c).storage = [] := h.shape.storage_eq_nil hv
  have hk : k ≤ 16 := (Nat.pow_le_pow_iff_right (by omega : 1 < 2)).1 (hc ▸ hd.trans hd16)
  refine ⟨{
      flags := by simp [Fifo.construct, hf]
      storageSorted := by rw [hnil]; rfl
      storageInside := by simp [hnil]
      unconstructed := by simp [Fifo.construct]
      powerOfTwo := fun _ => ⟨k, hk, hcap.trans hc⟩
      capacityFits := hcap ▸ hd
      maskIs := fun _ => hmask.trans hcap.symm
      indices := by simp [Fifo.construct]
      mails := by simp [Fifo.construct] },
    fun _ => ⟨?ring, by simp [Fifo.construct], by simp [Fifo.construct]⟩, Fifo.windows_of_closed rfl rfl,
    fun _ => ⟨rfl, rfl, rfl, rfl⟩⟩
  case ring =>
    have hzero : (x.construct c).span 0#16 0#16 = 0 := Fifo.span_self _ _
    change (x.construct c).span 0#16 0#16 + (x.construct c).span 0#16 0#16 + (x.construct c).span 0#16 0#16 + 1 ≤ _
    omega

end Sys2Proof.Machine
end

section
/-! What a command that ends can do: to the FIFO of its port (`State.FifoStep`) and to the machine (`State.ExecEffect`),
and the one theorem, `exec_effect`, that every command does one of these things. -/

namespace Sys2Proof

/-- R90, R100: the bytes a storing command brings. -/
def Instr.storedBytes : Instr → Option (List Byte)
  | .put b => some [b]
  | .bulkWrite payload => some payload
  | _ => none

/-- R91, R101: the number of bytes a consuming command takes. -/
def Instr.takenCount : Instr → Option Index
  | .get => some 1#16
  | .bulkRead len => some len
  | _ => none

/-- R111, R113 to R115: the side whose open window a command works on. -/
def Instr.windowSide : Instr → Option Machine.Side
  | .markC _ => some .consumer
  | .ldb _ => some .consumer
  | .markP _ => some .producer
  | .stb _ _ => some .producer
  | _ => none

end Sys2Proof

namespace Sys2Proof.Machine

open Sys2Proof

/-- What a command `i` at a port of `side` of FIFO `f` makes of that FIFO, with its response. -/
inductive State.FifoStep (s : State) (f : FifoId) : Side → Instr → Response → Fifo → Prop
  /-- R190: a breach of the lease contract. -/
  | breach {side : Side} {i : Instr} (hadm : s.Admitted f side .complete) (hi : i.windowSide = some side) :
      s.FifoStep f side i (errorAnswer i .contract) { s.fifo f with fault := true }
  /-- R90, R100. -/
  | store {i : Instr} {bytes : List Byte} {m : Memory} {l : Option Lease} (hadm : s.Admitted f .producer .move)
      (hi : i.storedBytes = some bytes)
      (hfit : ∀ d, (s.fifo f).Shape d → bytes.length ≤ (s.fifo f).freeP)
      (hm : s.memWrite f (s.fifo f).putIndex bytes = .ok (s.setFifo f { s.fifo f with storage := m }))
      (hl : l = none ∨ bytes = [] ∧ l = (s.fifo f).wrLease) :
      s.FifoStep f .producer i (okWith 0#24)
        (Fifo.published { s.fifo f with storage := m, wrLease := l } s.params.syncEager (BitVec.ofNat 16 bytes.length))
  /-- R91, R101. -/
  | take {i : Instr} {n : Index} {l : Option Lease} {r : Response} (hadm : s.Admitted f .consumer .move)
      (hi : i.takenCount = some n) (hfit : n.toNat ≤ (s.fifo f).occC.toNat)
      (hl : l = none ∨ n = 0#16 ∧ l = (s.fifo f).rdLease) (hr : r.status = .ok) :
      s.FifoStep f .consumer i r (Fifo.retired { s.fifo f with rdLease := l } s.params.syncEager n)
  /-- R110. -/
  | openRead {r : Response} (hadm : s.Admitted f .consumer .move) (hr : r.status = .ok) :
      s.FifoStep f .consumer .peekR r
        { s.fifo f with rdLease := windowOf (s.fifo f).getIndex (s.fifo f).readRun }
  /-- R112. -/
  | openWrite {r : Response} (hadm : s.Admitted f .producer .move) (hr : r.status = .ok) :
      s.FifoStep f .producer .peekW r
        { s.fifo f with wrLease := windowOf (s.fifo f).putIndex (s.fifo f).writeRun }
  /-- R111. -/
  | retire {len : Index} {l : Lease} (hadm : s.Admitted f .consumer .complete) (hl : (s.fifo f).rdLease = some l)
      (hlen : len.toNat ≤ l.run.toNat) :
      s.FifoStep f .consumer (.markC len) (okWith 0#24)
        (Fifo.retired { s.fifo f with rdLease := none } s.params.syncEager len)
  /-- R113. -/
  | publish {len : Index} {l : Lease} (hadm : s.Admitted f .producer .complete) (hl : (s.fifo f).wrLease = some l)
      (hlen : len.toNat ≤ l.run.toNat) :
      s.FifoStep f .producer (.markP len) (okWith 0#24)
        (Fifo.published { s.fifo f with wrLease := none } s.params.syncEager len)
  /-- R115. -/
  | storeByte {addr : Index} {b : Byte} {l : Lease} (hadm : s.Admitted f .producer .complete)
      (hl : (s.fifo f).wrLease = some l) (hcov : l.covers addr = true) :
      s.FifoStep f .producer (.stb addr b) (okWith 0#24)
        { s.fifo f with storage := Memory.write (s.fifo f).storage addr.toNat b }

/-- What a command `i` that ends makes of the machine. -/
inductive State.ExecEffect (s : State) : Instr → State → Prop
  /-- Only a response; it is not `Contract`. -/
  | answer {i : Instr} {r : Response} (hr : r.status ≠ .contract) : s.ExecEffect i (s.respond r)
  /-- A data-port command works on the FIFO of its port. -/
  | fifo {i : Instr} {f : FifoId} {side : Side} {r : Response} {x : Fifo} (h : s.FifoStep f side i r x) :
      s.ExecEffect i ((s.setFifo f x).respond r)
  /-- R80: INIT fails. -/
  | initFailed {f : FifoId} {c : BitVec 24} (hk : s.active = .k) (hrest : s.fsm = .rest)
      (hv : (s.fifo f).valid = false) (hf : (s.fifo f).failed = false) :
      s.ExecEffect (.init f c)
        ((s.setFifo f { s.fifo f with failed := true }).respond (errorAnswer (.init f c) .invalidSize))
  /-- R80: INIT constructs. -/
  | initDone {f : FifoId} {c : BitVec 24} (hk : s.active = .k) (hrest : s.fsm = .rest)
      (hv : (s.fifo f).valid = false) (hf : (s.fifo f).failed = false) (hpow : isPowerOfTwo c = true)
      (hd : c.toNat ≤ s.depth f) :
      s.ExecEffect (.init f c) ((s.setFifo f ((s.fifo f).construct c)).respond (okWith 0#24))
  /-- R150. -/
  | linkUp {dtr rts : Bool} (hk : s.active = .k) (hrest : s.fsm = .rest) :
      s.ExecEffect (.lineState dtr rts) (State.respond { s with link := .active, paused := false } (okWith 0#24))
  /-- R150, R163. -/
  | linkDown {dtr rts : Bool} (hk : s.active = .k) (hrest : s.fsm = .rest) :
      s.ExecEffect (.lineState dtr rts)
        ((State.emit { s with link := .inactive, paused := true } .activityClear).respond (okWith 0#24))
  /-- R151. -/
  | reconfigure {stopRaw parityRaw dataRaw : Byte} {baud : Word} (hk : s.active = .k) (hrest : s.fsm = .rest) :
      s.ExecEffect (.lineCoding stopRaw parityRaw dataRaw baud)
        ((s.enterReconfiguration
          { baud := baud, dataRaw := dataRaw, parityRaw := parityRaw, stopRaw := stopRaw }).respond (okWith 0#24))
  /-- R152: a free value is drawn. -/
  | draw {f : FifoId} {n : BitVec 8} {v : Word} (hk : s.active = .k) :
      s.ExecEffect (.rdreg f n) (State.respond { s with draws := s.draws + 1 } (rdregAnswer v))

/-! ## Responses, moves and checks as effects -/

theorem State.raise_effect {s t : State} {i : Instr} {status : Status} {second : Bool} (hst : status ≠ .contract)
    (h : s.raise status second = .next t) : s.ExecEffect i t := by
  cases h
  exact .answer hst

theorem State.done_effect {s t : State} {i : Instr} {val : BitVec 24} {rsp1 : Option Word} {payload : List Byte}
    (h : s.done val rsp1 payload = .next t) : s.ExecEffect i t := by
  cases h
  exact .answer (by simp)

/-- R194: a one-sided command that ends has failed a check, or was admitted and followed its own rule. -/
theorem State.atSide_effect {s t : State} {i : Instr} {want : Side} {cls : CommandClass} {second : Bool}
    {k : FifoId → Result} (h : s.atSide want cls second k = .next t)
    (hk : ∀ f, s.Admitted f want cls → k f = .next t → s.ExecEffect i t) : s.ExecEffect i t := by
  obtain ⟨-, heq⟩ | ⟨f, -, -, heq⟩ | ⟨f, hadm, heq⟩ := s.atSide_cases want cls second k <;> rw [heq] at h
  · exact State.raise_effect (by decide) h
  · exact State.raise_effect (by decide) h
  · exact hk f hadm h

/-- R162: a control command of REST that ends has failed a check or followed its own rule. -/
theorem State.atControlInRest_effect {s t : State} {i : Instr} {k : Result} (h : s.atControlInRest k = .next t)
    (hk : s.active = .k → s.fsm = .rest → k = .next t → s.ExecEffect i t) : s.ExecEffect i t := by
  obtain ⟨-, heq⟩ | ⟨-, -, heq⟩ | ⟨hactive, hrest, heq⟩ := s.atControlInRest_cases k <;> rw [heq] at h
  · exact State.raise_effect (by decide) h
  · exact State.raise_effect (by decide) h
  · exact hk hactive hrest h

/-- R190. -/
theorem State.raiseContract_effect {s t : State} {i : Instr} {f : FifoId} {side : Side}
    (hadm : s.Admitted f side .complete) (hi : i.windowSide = some side) (h2 : i.hasSecondWord = false)
    (h : s.raiseContract f = .next t) : s.ExecEffect i t := by
  have heff := State.ExecEffect.fifo (.breach hadm hi)
  rw [State.raiseContract, State.raise] at h
  cases h
  simpa [errorAnswer, h2] using heff

theorem State.movePut_setFifo (s : State) (f : FifoId) (x : Fifo) (n : Index) :
    (s.setFifo f x).movePut f n = s.setFifo f (x.published s.params.syncEager n) := by
  simp [State.movePut_eq]

theorem State.setWrLease_setFifo (s : State) (f : FifoId) (x : Fifo) (l : Option Lease) :
    (s.setFifo f x).setWrLease f l = s.setFifo f { x with wrLease := l } := by
  simp [State.setWrLease]

theorem State.setRdLease_setFifo (s : State) (f : FifoId) (x : Fifo) (l : Option Lease) :
    (s.setFifo f x).setRdLease f l = s.setFifo f { x with rdLease := l } := by
  simp [State.setRdLease]

/-- R90: what is not full in the producer's view has a free slot. -/
theorem Fifo.Shape.one_le_freeP {x : Fifo} {d : Nat} (h : x.Shape d) (hv : x.valid = true)
    (hfull : x.occP.toNat ≠ x.capacity.toNat - 1) : 1 ≤ x.freeP := by
  have hlt := h.span_lt_capacity hv x.putIndex x.getSeen
  rw [← Fifo.occP_toNat] at hlt
  unfold Fifo.freeP
  omega

/-! ## One lemma per command -/

section Commands

variable {s t : State}

theorem execPut_effect {b : Byte} (h : execPut b s = .next t) : s.ExecEffect (.put b) t := by
  refine State.atSide_effect h fun f hadm h => ?_
  split at h
  case isTrue => exact State.raise_effect (by decide) h
  case isFalse hfull =>
    obtain ⟨u, hu, h⟩ := (orFault_next_iff _ _ t).1 h
    obtain ⟨m, rfl, -⟩ := State.memWrite_frame hu
    rw [State.movePut_setFifo, State.setWrLease_setFifo, State.done_eq_okWith] at h
    cases h
    exact .fifo (.store (bytes := [b]) hadm rfl (fun d hs => hs.one_le_freeP hadm.valid hfull) hu (.inl rfl))

theorem execBulkWrite_effect {payload : List Byte} (h : execBulkWrite payload s = .next t) :
    s.ExecEffect (.bulkWrite payload) t := by
  refine State.atSide_effect h fun f hadm h => ?_
  split at h
  case isTrue => exact State.raise_effect (by decide) h
  case isFalse hfree =>
    obtain ⟨u, hu, h⟩ := (orFault_next_iff _ _ t).1 h
    obtain ⟨m, rfl, -⟩ := State.memWrite_frame hu
    simp only [State.movePut_setFifo, State.setWrLease_setFifo, State.done_eq_okWith] at h
    have hfit : ∀ d, (s.fifo f).Shape d → payload.length ≤ (s.fifo f).freeP := fun _ _ => Nat.le_of_not_lt hfree
    cases h
    split
    case isTrue hnil => exact .fifo (.store hadm rfl hfit hu (.inr ⟨List.isEmpty_iff.1 hnil, rfl⟩))
    case isFalse => exact .fifo (.store hadm rfl hfit hu (.inl rfl))

theorem execGet_effect (h : execGet s = .next t) : s.ExecEffect .get t := by
  refine State.atSide_effect h fun f hadm h => ?_
  split at h
  case isTrue => exact State.raise_effect (by decide) h
  case isFalse hne =>
    obtain ⟨b, -, h⟩ := (orFault_next_iff _ _ t).1 h
    rw [State.moveGet_eq, State.setRdLease_setFifo] at h
    cases h
    exact .fifo (.take hadm rfl (by bv_omega) (.inl rfl) rfl)

theorem execBulkRead_effect {len : Index} (h : execBulkRead len s = .next t) : s.ExecEffect (.bulkRead len) t := by
  refine State.atSide_effect h fun f hadm h => ?_
  split at h
  case isTrue => exact State.raise_effect (by decide) h
  case isFalse hocc =>
    obtain ⟨bytes, -, h⟩ := (orFault_next_iff _ _ t).1 h
    simp only [State.moveGet_eq, State.setRdLease_setFifo] at h
    cases h
    split
    case isTrue hzero => exact .fifo (.take hadm rfl (Nat.le_of_not_lt hocc) (.inr ⟨hzero, rfl⟩) rfl)
    case isFalse => exact .fifo (.take hadm rfl (Nat.le_of_not_lt hocc) (.inl rfl) rfl)

theorem execPeekR_effect (h : execPeekR s = .next t) : s.ExecEffect .peekR t := by
  refine State.atSide_effect h fun f hadm h => ?_
  cases h
  exact .fifo (.openRead hadm rfl)

theorem execPeekW_effect (h : execPeekW s = .next t) : s.ExecEffect .peekW t := by
  refine State.atSide_effect h fun f hadm h => ?_
  cases h
  exact .fifo (.openWrite hadm rfl)

theorem execMarkC_effect {len : Index} (h : execMarkC len s = .next t) : s.ExecEffect (.markC len) t := by
  refine State.atSide_effect h fun f hadm h => ?_
  split at h
  case h_1 => exact State.raiseContract_effect hadm rfl rfl h
  case h_2 l hl =>
    split at h
    case isTrue => exact State.raiseContract_effect hadm rfl rfl h
    case isFalse hlen =>
      rw [State.moveGet_eq, State.setRdLease_setFifo, State.done_eq_okWith] at h
      cases h
      exact .fifo (.retire hadm hl (Nat.le_of_not_lt hlen))

theorem execMarkP_effect {len : Index} (h : execMarkP len s = .next t) : s.ExecEffect (.markP len) t := by
  refine State.atSide_effect h fun f hadm h => ?_
  split at h
  case h_1 => exact State.raiseContract_effect hadm rfl rfl h
  case h_2 l hl =>
    split at h
    case isTrue => exact State.raiseContract_effect hadm rfl rfl h
    case isFalse hlen =>
      rw [State.movePut_eq, State.setWrLease_setFifo, State.done_eq_okWith] at h
      cases h
      exact .fifo (.publish hadm hl (Nat.le_of_not_lt hlen))

theorem execLdb_effect {addr : Index} (h : execLdb addr s = .next t) : s.ExecEffect (.ldb addr) t := by
  refine State.atSide_effect h fun f hadm h => ?_
  split at h
  case h_1 => exact State.raiseContract_effect hadm rfl rfl h
  case h_2 l hl =>
    split at h
    case isTrue =>
      obtain ⟨b, -, h⟩ := (orFault_next_iff _ _ t).1 h
      exact State.done_effect h
    case isFalse => exact State.raiseContract_effect hadm rfl rfl h

theorem execStb_effect {addr : Index} {b : Byte} (h : execStb addr b s = .next t) : s.ExecEffect (.stb addr b) t := by
  refine State.atSide_effect h fun f hadm h => ?_
  split at h
  case h_1 => exact State.raiseContract_effect hadm rfl rfl h
  case h_2 l hl =>
    split at h
    case isTrue hcov =>
      obtain ⟨u, hu, h⟩ := (orFault_next_iff _ _ t).1 h
      obtain ⟨-, rfl⟩ := (State.store_ok_iff s u f _ b).1 hu
      cases h
      exact .fifo (.storeByte hadm hl hcov)
    case isFalse => exact State.raiseContract_effect hadm rfl rfl h

theorem atEitherSide_effect {i : Instr} {cls : CommandClass} {val : FifoId → Side → BitVec 24}
    (h : s.atEitherSide cls (fun f side => s.done (val f side)) = .next t) : s.ExecEffect i t := by
  unfold State.atEitherSide at h
  split at h
  case h_1 => exact State.raise_effect (by decide) h
  case h_2 =>
    split at h
    case isTrue => exact State.done_effect h
    case isFalse => exact State.raise_effect (by decide) h

theorem execFind_effect {pattern : List Byte} (h : execFind pattern s = .next t) : s.ExecEffect (.find pattern) t := by
  unfold execFind at h
  split at h
  case isTrue => exact State.raise_effect (by decide) h
  case isFalse =>
    refine State.atSide_effect h fun f hadm h => ?_
    dsimp only at h
    split at h
    case isTrue => exact State.raise_effect (by decide) h
    case isFalse =>
      obtain ⟨found, -, h⟩ := (orFault_next_iff _ _ t).1 h
      cases found with
      | some k => exact State.done_effect h
      | none => exact State.raise_effect (by decide) h

theorem execPeekAt_effect {index : Index} (h : execPeekAt index s = .next t) : s.ExecEffect (.peekAt index) t := by
  refine State.atSide_effect h fun f hadm h => ?_
  split at h
  case isTrue => exact State.raise_effect (by decide) h
  case isFalse =>
    obtain ⟨b, -, h⟩ := (orFault_next_iff _ _ t).1 h
    exact State.done_effect h

theorem execInit_effect {f : FifoId} {c : BitVec 24} (h : execInit f c s = .next t) : s.ExecEffect (.init f c) t := by
  refine State.atControlInRest_effect h fun hk hrest h => ?_
  split at h
  case isTrue => exact State.raise_effect (by decide) h
  case isFalse hfresh =>
    obtain ⟨hv, hf⟩ : (s.fifo f).valid = false ∧ (s.fifo f).failed = false := by simpa using hfresh
    split at h
    case isTrue => cases h; exact .initFailed hk hrest hv hf
    case isFalse hsize =>
      obtain ⟨hpow, hd⟩ : isPowerOfTwo c = true ∧ c.toNat ≤ s.depth f := by simpa using hsize
      cases h
      exact .initDone hk hrest hv hf hpow hd

theorem execLineState_effect {dtr rts : Bool} (h : execLineState dtr rts s = .next t) :
    s.ExecEffect (.lineState dtr rts) t := by
  refine State.atControlInRest_effect h fun hk hrest h => ?_
  split at h
  case isTrue => cases h; exact .linkUp hk hrest
  case isFalse => cases h; exact .linkDown hk hrest

theorem execLineCoding_effect {stopRaw parityRaw dataRaw : Byte} {baud : Word}
    (h : execLineCoding stopRaw parityRaw dataRaw baud s = .next t) :
    s.ExecEffect (.lineCoding stopRaw parityRaw dataRaw baud) t := by
  refine State.atControlInRest_effect h fun hk hrest h => ?_
  cases h
  exact .reconfigure hk hrest

theorem execRdreg_effect {f : FifoId} {n : BitVec 8} (h : execRdreg f n s = .next t) : s.ExecEffect (.rdreg f n) t := by
  unfold execRdreg State.atControl at h
  split at h
  case isFalse => exact State.raise_effect (by decide) h
  case isTrue hk =>
    split at h
    case h_1 => exact State.raise_effect (by decide) h
    case h_2 =>
      split at h
      case isTrue => exact State.done_effect h
      case isFalse => cases h; exact .draw hk

end Commands

/-- Every command that ends does what `State.ExecEffect` says. -/
theorem exec_effect {s t : State} {i : Instr} (h : exec i s = .next t) : s.ExecEffect i t := by
  cases i with
  | put b => exact execPut_effect h
  | get => exact execGet_effect h
  | elems => exact atEitherSide_effect h
  | free => exact atEitherSide_effect h
  | bulkWrite payload => exact execBulkWrite_effect h
  | bulkRead len => exact execBulkRead_effect h
  | peekR => exact execPeekR_effect h
  | markC len => exact execMarkC_effect h
  | peekW => exact execPeekW_effect h
  | markP len => exact execMarkP_effect h
  | find pattern => exact execFind_effect h
  | peekAt index => exact execPeekAt_effect h
  | ldb addr => exact execLdb_effect h
  | stb addr b => exact execStb_effect h
  | init f c => exact execInit_effect h
  | lineCoding stopRaw parityRaw dataRaw baud => exact execLineCoding_effect h
  | lineState dtr rts => exact execLineState_effect h
  | rdreg f n => exact execRdreg_effect h

end Sys2Proof.Machine
end

section
/-! One step of the machine as one of three effects (spec/00_scope.md R8, spec/60_exceptions.md R198): nothing but the
model's record of turns and ports, a command at the port whose turn it is, or an enabled internal step; and what each
internal step is (spec/45_cdc_sync.md R140 to R143, spec/46_control.md R153). -/

namespace Sys2Proof.Machine

open Sys2Proof

/-! ## States that differ in turns and ports only -/

/-- Control and FIFOs are the same; turns, the active port and what stands at the ports may differ. -/
structure State.SameCore (s t : State) : Prop where
  control : s.SameControl t
  fifo : ∀ f, t.fifo f = s.fifo f

theorem State.SameControl.refl (s : State) : s.SameControl s := by constructor <;> rfl

theorem State.SameCore.refl (s : State) : s.SameCore s := ⟨.refl s, fun _ => rfl⟩

theorem State.SameControl.trans {s t u : State} (h : s.SameControl t) (h' : t.SameControl u) : s.SameControl u where
  fsm := h'.fsm.trans h.fsm
  paused := h'.paused.trans h.paused
  uartUp := h'.uartUp.trans h.uartUp
  link := h'.link.trans h.link
  reqCfg := h'.reqCfg.trans h.reqCfg
  lineConfig := h'.lineConfig.trans h.lineConfig
  cfgValid := h'.cfgValid.trans h.cfgValid
  coerced := h'.coerced.trans h.coerced
  pollInterval := h'.pollInterval.trans h.pollInterval
  events := h'.events.trans h.events
  reqWritten := h'.reqWritten.trans h.reqWritten
  pollWritten := h'.pollWritten.trans h.pollWritten
  params := h'.params.trans h.params
  draws := h'.draws.trans h.draws

theorem State.SameCore.trans {s t u : State} (h : s.SameCore t) (h' : t.SameCore u) : s.SameCore u :=
  ⟨h.control.trans h'.control, fun f => (h'.fifo f).trans (h.fifo f)⟩

theorem State.sameControl_respond (s : State) (r : Response) : s.SameControl (s.respond r) := by
  constructor <;> simp

theorem State.sameCore_respond (s : State) (r : Response) : s.SameCore (s.respond r) :=
  ⟨s.sameControl_respond r, s.fifo_respond r⟩

theorem State.sameControl_setFifo (s : State) (f : FifoId) (x : Fifo) : s.SameControl (s.setFifo f x) := by
  constructor <;> simp

theorem State.sameCore_accept (s : State) (p : PortId) (words : List Word) (bytes : List Byte) :
    s.SameCore (s.accept p words bytes) :=
  ⟨s.sameControl_accept p words bytes, s.fifo_accept p words bytes⟩

/-- R198: taking a turn uses up the turn and changes nothing else. -/
theorem State.sameCore_takeTurn (s : State) : s.SameCore s.takeTurn.2 := by
  cases hturns : s.turns with
  | nil => rw [State.takeTurn_of_turns_nil hturns]; exact ⟨by constructor <;> rfl, fun f => by cases f <;> rfl⟩
  | cons m rest => rw [State.takeTurn_of_turns_cons hturns]; exact ⟨by constructor <;> rfl, fun f => by cases f <;> rfl⟩

/-! ## The effects of a step -/

/-- What one step of the machine does. -/
inductive State.StepEffect (s : State) : State → Prop
  /-- A turn without an enabled step, or an undecodable word. -/
  | idle {t : State} (h : s.SameCore t) : s.StepEffect t
  /-- A command at the port whose turn it is. -/
  | command {t u : State} {p : PortId} {i : Instr} (hturn : s.takeTurn.1 = .port p) (hcore : s.SameCore u)
      (hp : u.active = p) (h : u.ExecEffect i t) : s.StepEffect t
  /-- The internal step whose turn it is. -/
  | internal {t u : State} (hcore : s.SameCore u) (h : internalStep s.takeTurn.1 u = some t) : s.StepEffect t

theorem portTurn_effect {s t u : State} {p : PortId} (hturn : s.takeTurn.1 = .port p) (hcore : s.SameCore u)
    (h : portTurn p u = .next t) : s.StepEffect t := by
  unfold portTurn at h
  split at h
  case h_1 => cases h; exact .idle hcore
  case h_2 why words bytes _ =>
    cases h
    exact .idle (hcore.trans ((u.sameCore_accept p words bytes).trans (State.sameCore_respond _ _)))
  case h_3 i words bytes _ =>
    exact .command hturn (hcore.trans (u.sameCore_accept p words bytes)) (u.accept_active p words bytes) (exec_effect h)

/-- Every step that answers a next state does what `State.StepEffect` says. -/
theorem step_effect {s t : State} (h : step s = .next t) : s.StepEffect t := by
  have hcore := s.sameCore_takeTurn
  obtain ⟨⟨m, u⟩, hturn⟩ : ∃ mu, s.takeTurn = mu := ⟨_, rfl⟩
  have hm : s.takeTurn.1 = m := by rw [hturn]
  rw [hturn] at hcore
  by_cases hport : ∃ p, m = .port p
  · obtain ⟨p, rfl⟩ := hport
    rw [step_of_port_turn hturn] at h
    exact portTurn_effect hm hcore h
  · rw [step_of_internal_turn hturn fun p hp => hport ⟨p, hp⟩] at h
    cases h
    cases hstep : internalStep m u with
    | none => simpa [internalTurn, hstep] using State.StepEffect.idle hcore
    | some t => simpa [internalTurn, hstep] using State.StepEffect.internal hcore (hm ▸ hstep)

/-! ## The internal steps -/

theorem launchPut_eq_some_iff {f : FifoId} {s t : State} :
    launchPut f s = some t ↔
      (s.fifo f).valid = true ∧ s.params.syncEager = false ∧ (s.fifo f).putMail = none ∧
        (s.fifo f).putIndex ≠ (s.fifo f).putSeen ∧
        t = s.setFifo f { s.fifo f with putMail := some (s.fifo f).putIndex } := by
  simp [launchPut, and_assoc, eq_comm (a := t)]

theorem launchGet_eq_some_iff {f : FifoId} {s t : State} :
    launchGet f s = some t ↔
      (s.fifo f).valid = true ∧ s.params.syncEager = false ∧ (s.fifo f).getMail = none ∧
        (s.fifo f).getIndex ≠ (s.fifo f).getSeen ∧
        t = s.setFifo f { s.fifo f with getMail := some (s.fifo f).getIndex } := by
  simp [launchGet, and_assoc, eq_comm (a := t)]

theorem landPut_eq_some_iff {f : FifoId} {s t : State} :
    landPut f s = some t ↔
      (s.fifo f).valid = true ∧ ∃ v, (s.fifo f).putMail = some v ∧
        t = s.setFifo f { s.fifo f with putSeen := v, putMail := none } := by
  cases hm : (s.fifo f).putMail <;> simp [landPut, hm, eq_comm (a := t)]

theorem landGet_eq_some_iff {f : FifoId} {s t : State} :
    landGet f s = some t ↔
      (s.fifo f).valid = true ∧ ∃ v, (s.fifo f).getMail = some v ∧
        t = s.setFifo f { s.fifo f with getSeen := v, getMail := none } := by
  cases hm : (s.fifo f).getMail <;> simp [landGet, hm, eq_comm (a := t)]

/-- R153: the seven sequencer steps, each from its own state. -/
theorem fsmStep_cases {s t : State} (h : fsmStep s = some t) :
    (s.fsm = .teardown ∧ t = teardownStep s) ∨ (s.fsm = .drain ∧ s.drained = true ∧ t = { s with fsm := .clear }) ∨
      (s.fsm = .clear ∧ t = clearStep s) ∨ (s.fsm = .validate ∧ t = validateStep s) ∨
      (s.fsm = .retime ∧ t = retimeStep s) ∨ (s.fsm = .reinit ∧ t = reinitStep s) ∨
      (s.fsm = .resume ∧ t = resumeStep s) := by
  cases hfsm : s.fsm <;> simp only [fsmStep, hfsm, drainStep] at h
  case rest => cases h
  case drain =>
    split at h
    case isTrue hd => simp [hd, Option.some.inj h]
    case isFalse => cases h
  all_goals simp [Option.some.inj h]

theorem State.drained_iff (s : State) :
    s.drained = true ↔ (s.fifo .h2d).rdLease = none ∧ (s.fifo .d2h).wrLease = none := by
  simp [State.drained, State.fifo]

end Sys2Proof.Machine
end

section
/-! The commands keep the invariant of the FIFO they work on (spec/10_state.md R10 to R20, R144). -/

namespace Sys2Proof.Machine

open Sys2Proof

theorem State.memWrite_storage {s : State} {f : FifoId} {i : Index} {bytes : List Byte} {m : Memory}
    (h : s.memWrite f i bytes = .ok (s.setFifo f { s.fifo f with storage := m })) :
    (Memory.wf (s.fifo f).storage = true → Memory.wf m = true) ∧
      (∀ a, (∀ k < bytes.length, a ≠ (s.fifo f).addr (i + BitVec.ofNat 16 k)) →
        Memory.read m a = Memory.read (s.fifo f).storage a) ∧
      ∀ c ∈ m, c ∈ (s.fifo f).storage ∨ ∃ k < bytes.length, c.1 = (s.fifo f).addr (i + BitVec.ofNat 16 k) := by
  obtain ⟨m', heq, hframe⟩ := State.memWrite_frame h
  obtain rfl : m = m' := by simpa using congrArg (fun t => (t.fifo f).storage) heq
  exact hframe

/-- R110, R112: the window opened for a run that fits an index. -/
theorem mem_windowOf {ptr : Index} {run : Nat} {l : Lease} (hrun : run < 65536) (h : l ∈ windowOf ptr run) :
    l.ptr = ptr ∧ l.run.toNat = run ∧ 1 ≤ run := by
  unfold windowOf at h
  split at h
  case isTrue => cases h
  case isFalse hpos =>
    cases h
    exact ⟨rfl, by simpa using hrun, by omega⟩

namespace Fifo.Sound

variable {x : Fifo} {d : Nat} {e : Bool}

theorem openRead (h : x.Sound d e) (hv : x.valid = true) :
    ({ x with rdLease := windowOf x.getIndex x.readRun } : Fifo).Sound d e := by
  refine h.withRdLease hv fun w hw => ?_
  have hmask := h.shape.maskIs hv
  have hget := h.shape.indices.2.1
  have hocc : x.readRun ≤ x.occC.toNat := Nat.min_le_left _ _
  have hend : x.readRun ≤ x.capacity.toNat - x.getIndex.toNat := Nat.min_le_right _ _
  obtain ⟨hptr, hrun, hpos⟩ := mem_windowOf (by omega) hw
  rw [hptr, hrun]
  exact ⟨rfl, hpos, hocc, by omega⟩

theorem openWrite (h : x.Sound d e) (hv : x.valid = true) :
    ({ x with wrLease := windowOf x.putIndex x.writeRun } : Fifo).Sound d e := by
  refine h.withWrLease hv fun w hw => ?_
  have hmask := h.shape.maskIs hv
  have hput := h.shape.indices.1
  have hcap := h.shape.capacity_bounds hv
  have hfree : x.writeRun ≤ x.freeP := Nat.min_le_left _ _
  have hreserved : x.freeP ≤ x.capacity.toNat - 1 := Nat.sub_le _ _
  have hend : x.writeRun ≤ x.capacity.toNat - x.putIndex.toNat := Nat.min_le_right _ _
  obtain ⟨hptr, hrun, hpos⟩ := mem_windowOf (by omega) hw
  rw [hptr, hrun]
  exact ⟨rfl, hpos, hfree, by omega⟩

/-- R90, R100: storage written from `put_index` on. -/
theorem stored {s : State} {f : FifoId} {bytes : List Byte} {m : Memory} (h : (s.fifo f).Sound d e)
    (hv : (s.fifo f).valid = true)
    (hm : s.memWrite f (s.fifo f).putIndex bytes = .ok (s.setFifo f { s.fifo f with storage := m })) :
    ({ s.fifo f with storage := m } : Fifo).Sound d e := by
  obtain ⟨hsorted, -, hcells⟩ := State.memWrite_storage hm
  refine h.withStorage (hsorted h.shape.storageSorted) fun c hc => ?_
  rcases hcells c hc with hc | ⟨k, -, hc⟩
  · exact h.shape.storageInside c hc
  · have hle : (s.fifo f).addr ((s.fifo f).putIndex + BitVec.ofNat 16 k) ≤ (s.fifo f).mask.toNat := and_mask_le _ _
    have hmask := h.shape.maskIs hv
    omega

theorem published_closing (h : x.Sound d e) (hv : x.valid = true) {n : Index} (hn : n.toNat ≤ x.freeP) :
    (Fifo.published { x with wrLease := none } e n).Sound d e :=
  (h.withWrLease hv (l := none) (by simp)).published hv rfl hn

theorem retired_closing (h : x.Sound d e) (hv : x.valid = true) {n : Index} (hn : n.toNat ≤ x.occC.toNat) :
    (Fifo.retired { x with rdLease := none } e n).Sound d e :=
  (h.withRdLease hv (l := none) (by simp)).retired hv rfl hn

end Fifo.Sound

theorem State.FifoStep.admitted {s : State} {f : FifoId} {side : Side} {i : Instr} {r : Response} {x : Fifo}
    (h : s.FifoStep f side i r x) : ∃ cls, s.Admitted f side cls := by
  cases h <;> exact ⟨_, ‹_›⟩

/-- Every command that works on a FIFO keeps its invariant. -/
theorem State.FifoStep.sound {s : State} {f : FifoId} {side : Side} {i : Instr} {r : Response} {x : Fifo} {d : Nat}
    (h : s.FifoStep f side i r x) (hs : (s.fifo f).Sound d s.params.syncEager) : x.Sound d s.params.syncEager := by
  obtain ⟨cls, hadm⟩ := h.admitted
  have hv := hadm.valid
  have hcap := hs.shape.capacity_bounds hv
  cases h with
  | breach => exact hs.withFault true
  | @store i bytes m l _ _ hfit hm hl =>
    have hstored := hs.stored hv hm
    have hfree := hfit d hs.shape
    have hlen : (BitVec.ofNat 16 bytes.length).toNat = bytes.length :=
      Nat.mod_eq_of_lt (by unfold Fifo.freeP at hfree; omega)
    obtain rfl | ⟨rfl, rfl⟩ := hl
    · exact hstored.published_closing hv (hlen.trans_le hfree)
    · exact (hstored.published_zero hv).symm ▸ hstored
  | @take i n l r _ _ hfit hl =>
    obtain rfl | ⟨rfl, rfl⟩ := hl
    · exact hs.retired_closing hv hfit
    · exact (hs.retired_zero hv).symm ▸ hs
  | openRead => exact hs.openRead hv
  | openWrite => exact hs.openWrite hv
  | retire _ hl hlen =>
    obtain ⟨-, -, hrun, -⟩ := hs.windows.read _ hl
    exact hs.retired_closing hv (hlen.trans hrun)
  | publish _ hl hlen =>
    obtain ⟨-, -, hrun, -⟩ := hs.windows.write _ hl
    exact hs.published_closing hv (hlen.trans hrun)
  | @storeByte addr b l _ hl hcov =>
    obtain ⟨-, -, -, hend⟩ := hs.windows.write _ hl
    refine hs.withByte b ?_
    simp only [Lease.covers, Bool.and_eq_true, decide_eq_true_eq] at hcov
    omega

end Sys2Proof.Machine
end

section
/-! Every step keeps the invariant of the machine (`State.Inv`). -/

namespace Sys2Proof.Machine

open Sys2Proof

/-! ## What the invariant depends on -/

theorem State.depth_eq_of_params {s t : State} (h : t.params = s.params) (f : FifoId) : t.depth f = s.depth f := by
  cases f <;> simp [State.depth, h]

theorem State.depth_le (s : State) (f : FifoId) : s.depth f ≤ 65536 := by
  have h0 := s.params.depthLog0.isLt
  have h1 := s.params.depthLog1.isLt
  cases f <;> exact Nat.pow_le_pow_right (by omega) (by omega : _ ≤ 16)

theorem State.FifoInv.congr {s t : State} {f : FifoId} (h : s.FifoInv f) (hp : t.params = s.params)
    (hf : t.fifo f = s.fifo f) : t.FifoInv f := by
  rw [State.fifoInv_iff_sound] at h ⊢
  rwa [hf, hp, State.depth_eq_of_params hp]

theorem State.Inv.fifo {s : State} (h : s.Inv) (f : FifoId) : s.FifoInv f := by
  cases f with
  | h2d => exact h.h2d
  | d2h => exact h.d2h

theorem State.Inv.sound {s : State} (h : s.Inv) (f : FifoId) : (s.fifo f).Sound (s.depth f) s.params.syncEager :=
  (s.fifoInv_iff_sound f).1 (h.fifo f)

theorem State.Inv.of_fifo {s : State} (hf : ∀ f, s.FifoInv f) (hs : s.SequenceInv) : s.Inv := ⟨hf .h2d, hf .d2h, hs⟩

/-- The sequence invariant sees of a FIFO only whether the hardware side is drained and whether it is cleared. -/
theorem State.SequenceInv.congr {s t : State} (h : s.SequenceInv) (hc : s.SameControl t)
    (hd : 3 ≤ s.phase → t.drained = true)
    (hcl : 4 ≤ s.phase → ∀ f, (t.fifo f).clear = t.fifo f) : t.SequenceInv := by
  have hphase : t.phase = s.phase := by simp [State.phase, hc.fsm]
  constructor
  case drained => rwa [hphase]
  case cleared => rw [hphase]; exact fun h4 => ⟨hcl h4 .h2d, hcl h4 .d2h⟩
  all_goals
    simp only [hphase, hc.fsm, hc.paused, hc.uartUp, hc.reqCfg, hc.lineConfig, hc.cfgValid, hc.coerced,
      hc.pollInterval, hc.reqWritten, hc.pollWritten, hc.params]
  case paused => exact h.paused
  case requested => exact h.requested
  case uartDown => exact h.uartDown
  case uartUp => exact h.uartUp
  case resolved => exact h.resolved
  case retimed => exact h.retimed
  case settings => exact h.settings
  case request => exact h.request
  case interval => exact h.interval
  case atRest => exact h.atRest

theorem State.SequenceInv.fifo_cleared {s : State} (h : s.SequenceInv) (h4 : 4 ≤ s.phase) (f : FifoId) :
    (s.fifo f).clear = s.fifo f := by
  obtain ⟨h0, h1⟩ := h.cleared h4
  cases f with
  | h2d => exact h0
  | d2h => exact h1

theorem State.Inv.congr {s t : State} (h : s.Inv) (hc : s.SameCore t) : t.Inv := by
  refine .of_fifo (fun f => (h.fifo f).congr hc.control.params (hc.fifo f)) (h.sequence.congr hc.control ?_ ?_)
  · intro h3
    rw [State.drained_iff, hc.fifo, hc.fifo, ← State.drained_iff]
    exact h.sequence.drained h3
  · intro h4 f
    rw [hc.fifo]
    exact h.sequence.fifo_cleared h4 f

/-- One FIFO changes: it must keep its own invariant, a closed hardware-side window after DRAIN, and emptiness after
CLEAR. -/
theorem State.Inv.setFifo {s : State} {f : FifoId} {x : Fifo} (h : s.Inv)
    (hx : x.Sound (s.depth f) s.params.syncEager) (hd : 3 ≤ s.phase → (s.setFifo f x).drained = true)
    (hcl : 4 ≤ s.phase → x.clear = x) : (s.setFifo f x).Inv := by
  refine .of_fifo (fun g => ?_) (h.sequence.congr (s.sameControl_setFifo f x) hd fun h4 g => ?_) <;>
    by_cases hg : g = f
  · subst hg
    simpa [State.fifoInv_iff_sound] using hx
  · exact (h.fifo g).congr (s.setFifo_params f x) (s.fifo_setFifo_ne x hg)
  · subst hg
    simpa using hcl h4
  · rw [s.fifo_setFifo_ne x hg]
    exact h.sequence.fifo_cleared h4 g

/-- As `State.Inv.setFifo`, for a change that leaves both windows alone. -/
theorem State.Inv.setFifo_sameWindows {s : State} {f : FifoId} {x : Fifo} (h : s.Inv)
    (hx : x.Sound (s.depth f) s.params.syncEager) (hr : x.rdLease = (s.fifo f).rdLease)
    (hw : x.wrLease = (s.fifo f).wrLease) (hcl : 4 ≤ s.phase → x.clear = x) : (s.setFifo f x).Inv := by
  refine h.setFifo hx (fun h3 => ?_) hcl
  have hdrained := s.drained_iff.1 (h.sequence.drained h3)
  rw [State.drained_iff]
  cases f <;> simpa [State.setFifo, State.fifo, hr, hw] using hdrained

/-- R81: a FIFO RESET leaves alone has nothing in it and nothing under way. -/
theorem Fifo.clear_eq_self_iff (x : Fifo) :
    x.clear = x ↔ (x.valid = true → x.putIndex = 0#16 ∧ x.getIndex = 0#16 ∧ x.putSeen = 0#16 ∧ x.getSeen = 0#16 ∧
      x.putMail = none ∧ x.getMail = none ∧ x.rdLease = none ∧ x.wrLease = none) := by
  obtain ⟨valid, _⟩ := x
  cases valid
  · simp [Fifo.clear]
  · simp [Fifo.clear, eq_comm (a := 0#16), eq_comm (a := (none : Option Index)), eq_comm (a := (none : Option Lease))]

theorem Fifo.clear_clear (x : Fifo) : x.clear.clear = x.clear := by
  by_cases hv : x.valid = true <;> simp [Fifo.clear, hv]

theorem Fifo.clear_rdLease {x : Fifo} (h : x.rdLease = none) : x.clear.rdLease = none := by
  by_cases hv : x.valid = true <;> simp [Fifo.clear, hv, h]

theorem Fifo.clear_wrLease {x : Fifo} (h : x.wrLease = none) : x.clear.wrLease = none := by
  by_cases hv : x.valid = true <;> simp [Fifo.clear, hv, h]

/-- R156. -/
theorem fifo_clearStep (s : State) (f : FifoId) : (clearStep s).fifo f = (s.fifo f).clear := by cases f <;> rfl

theorem State.phase_of_rest {s : State} (h : s.fsm = .rest) : s.phase = 0 := by simp [State.phase, h, fsmCode]

theorem State.fsm_ne_rest_of_phase {s : State} {n : Nat} (h : n + 1 ≤ s.phase) : s.fsm ≠ .rest := by
  intro hrest
  rw [State.phase_of_rest hrest] at h
  omega

/-! ## Commands -/

/-- R212: no byte-moving command is admitted while the bridge is paused. -/
theorem State.Admitted.not_paused {s : State} {f : FifoId} {side : Side} (h : s.Admitted f side .move) :
    s.paused = false := by
  have hgate := h.2
  simp only [State.gate, Bool.and_eq_true, Bool.not_eq_true'] at hgate
  exact hgate.1.2

/-- R212: while the bridge is paused only the hardware side completes a window. -/
theorem State.Admitted.side_ne_taskSide {s : State} {f : FifoId} {side : Side} (h : s.Admitted f side .complete)
    (hp : s.paused = true) : side ≠ taskSide f := by
  have hgate := h.2
  simp only [State.gate, hp, Bool.not_true, Bool.or_false, Bool.and_eq_true, Bool.not_eq_true',
    decide_eq_false_iff_not] at hgate
  exact hgate.2

/-- R212, R225: while the bridge is paused and the hardware side drained, a command can do no more to a FIFO than to
breach its contract. -/
theorem State.FifoStep.of_drained {s : State} {f : FifoId} {side : Side} {i : Instr} {r : Response} {x : Fifo}
    (h : s.FifoStep f side i r x) (hp : s.paused = true) (hd : s.drained = true) :
    x = { s.fifo f with fault := true } := by
  obtain ⟨hrd, hwr⟩ := s.drained_iff.1 hd
  cases h with
  | breach => rfl
  | store hadm | take hadm | openRead hadm | openWrite hadm => simp [hadm.not_paused] at hp
  | retire hadm hl =>
    cases f with
    | h2d => simp [hrd] at hl
    | d2h => exact absurd rfl (hadm.side_ne_taskSide hp)
  | publish hadm hl | storeByte hadm hl =>
    cases f with
    | h2d => exact absurd rfl (hadm.side_ne_taskSide hp)
    | d2h => simp [hwr] at hl

theorem State.FifoStep.inv {s : State} {f : FifoId} {side : Side} {i : Instr} {r : Response} {x : Fifo}
    (h : s.FifoStep f side i r x) (hs : s.Inv) : (s.setFifo f x).Inv := by
  have hx := h.sound (hs.sound f)
  by_cases h3 : 3 ≤ s.phase
  · obtain rfl := h.of_drained (hs.sequence.paused (State.fsm_ne_rest_of_phase h3)) (hs.sequence.drained h3)
    refine hs.setFifo_sameWindows hx rfl rfl fun h4 => ?_
    have hclear := hs.sequence.fifo_cleared h4 f
    rw [Fifo.clear_eq_self_iff] at hclear ⊢
    exact hclear
  · exact hs.setFifo hx (fun h => absurd h h3) fun h => absurd h (by omega)

/-- R80: in REST an INIT may replace a FIFO by any sound one. -/
theorem State.Inv.setFifo_of_rest {s : State} {f : FifoId} {x : Fifo} (h : s.Inv) (hrest : s.fsm = .rest)
    (hx : x.Sound (s.depth f) s.params.syncEager) : (s.setFifo f x).Inv := by
  have hphase := State.phase_of_rest hrest
  exact h.setFifo hx (fun h3 => absurd h3 (by omega)) fun h4 => absurd h4 (by omega)

theorem State.SequenceInv.lineState {s : State} (h : s.SequenceInv) (hrest : s.fsm = .rest) (l : LinkState) (p : Bool)
    (ev : List Event) : State.SequenceInv { s with link := l, paused := p, events := ev } :=
  { h with paused := fun hne => absurd hrest hne }

theorem State.SequenceInv.enterReconfiguration {s : State} (h : s.SequenceInv) (hrest : s.fsm = .rest) (req : ReqCfg) :
    (s.enterReconfiguration req).SequenceInv := by
  have hphase : (s.enterReconfiguration req).phase = 1 := rfl
  have hinterval : s.phase ≠ 5 := by rw [State.phase_of_rest hrest]; decide
  constructor
  case paused => exact fun _ => rfl
  case requested => exact fun _ => rfl
  case settings => exact h.settings
  case request => exact fun _ => rfl
  case interval => exact fun hp _ => h.interval hp hinterval
  case atRest => exact nofun
  all_goals exact fun hle => absurd hle (by omega)

/-- A change of the control state alone must keep the sequence. -/
theorem State.Inv.of_sequence {s t : State} (h : s.Inv) (hp : t.params = s.params) (hf : ∀ f, t.fifo f = s.fifo f)
    (hseq : t.SequenceInv) : t.Inv :=
  .of_fifo (fun f => (h.fifo f).congr hp (hf f)) hseq

theorem State.Inv.respond {s : State} (h : s.Inv) (r : Response) : (s.respond r).Inv := h.congr (s.sameCore_respond r)

/-- Every command keeps the invariant. -/
theorem State.ExecEffect.inv {s t : State} {i : Instr} (h : s.ExecEffect i t) (hs : s.Inv) : t.Inv := by
  cases h with
  | answer => exact hs.respond _
  | fifo h => exact (h.inv hs).respond _
  | @initFailed f c _ hrest hv hf => exact (hs.setFifo_of_rest hrest ((hs.sound f).withFailed hv)).respond _
  | @initDone f c _ hrest hv hf hpow hd =>
    obtain ⟨k, hk⟩ := (isPowerOfTwo_iff c).1 hpow
    have hx := (hs.sound f).construct hv hf hk hd (s.depth_le f)
    exact (hs.setFifo_of_rest hrest hx).respond _
  | linkUp _ hrest =>
    refine State.Inv.respond ?_ _
    exact hs.of_sequence rfl (fun f => by cases f <;> rfl) (hs.sequence.lineState hrest _ _ _)
  | linkDown _ hrest =>
    refine State.Inv.respond ?_ _
    exact hs.of_sequence rfl (fun f => by cases f <;> rfl) (hs.sequence.lineState hrest _ _ _)
  | reconfigure _ hrest =>
    refine State.Inv.respond ?_ _
    exact hs.of_sequence rfl (fun f => by cases f <;> rfl) (hs.sequence.enterReconfiguration hrest _)
  | draw =>
    refine State.Inv.respond ?_ _
    exact hs.of_sequence rfl (fun f => by cases f <;> rfl) { hs.sequence with }

/-! ## Crossings -/

/-- R140 to R143: the synchronisers keep the invariant; after CLEAR none of them has a step. -/
theorem State.Inv.launchPut {s t : State} {f : FifoId} (hs : s.Inv) (h : Machine.launchPut f s = some t) : t.Inv := by
  obtain ⟨hv, he, -, hne, rfl⟩ := launchPut_eq_some_iff.1 h
  refine hs.setFifo_sameWindows ?_ rfl rfl fun h4 => ?_
  · have hsound := hs.sound f
    rw [he] at hsound ⊢
    exact hsound.launchPut hv
  · obtain ⟨hput, -, hseen, -⟩ := (Fifo.clear_eq_self_iff _).1 (hs.sequence.fifo_cleared h4 f) hv
    exact absurd (hput.trans hseen.symm) hne

theorem State.Inv.launchGet {s t : State} {f : FifoId} (hs : s.Inv) (h : Machine.launchGet f s = some t) : t.Inv := by
  obtain ⟨hv, he, -, hne, rfl⟩ := launchGet_eq_some_iff.1 h
  refine hs.setFifo_sameWindows ?_ rfl rfl fun h4 => ?_
  · have hsound := hs.sound f
    rw [he] at hsound ⊢
    exact hsound.launchGet hv
  · obtain ⟨-, hget, -, hseen, -⟩ := (Fifo.clear_eq_self_iff _).1 (hs.sequence.fifo_cleared h4 f) hv
    exact absurd (hget.trans hseen.symm) hne

theorem State.Inv.landPut {s t : State} {f : FifoId} (hs : s.Inv) (h : Machine.landPut f s = some t) : t.Inv := by
  obtain ⟨hv, v, hm, rfl⟩ := landPut_eq_some_iff.1 h
  refine hs.setFifo_sameWindows ((hs.sound f).landPut hv hm) rfl rfl fun h4 => ?_
  obtain ⟨-, -, -, -, hnone, -⟩ := (Fifo.clear_eq_self_iff _).1 (hs.sequence.fifo_cleared h4 f) hv
  simp [hnone] at hm

theorem State.Inv.landGet {s t : State} {f : FifoId} (hs : s.Inv) (h : Machine.landGet f s = some t) : t.Inv := by
  obtain ⟨hv, v, hm, rfl⟩ := landGet_eq_some_iff.1 h
  refine hs.setFifo_sameWindows ((hs.sound f).landGet hv hm) rfl rfl fun h4 => ?_
  obtain ⟨-, -, -, -, -, hnone, -⟩ := (Fifo.clear_eq_self_iff _).1 (hs.sequence.fifo_cleared h4 f) hv
  simp [hnone] at hm

/-! ## The sequencer -/

namespace State.SequenceInv

variable {s : State}

/-- R154. -/
theorem teardown (h : s.SequenceInv) (hfsm : s.fsm = .teardown) : (teardownStep s).SequenceInv := by
  have hne : s.fsm ≠ .rest := by simp [hfsm]
  have hbefore : s.phase = 1 := by simp [State.phase, hfsm, fsmCode]
  have hphase : (teardownStep s).phase = 2 := rfl
  constructor
  case paused => exact fun _ => h.paused hne
  case requested => exact fun _ => h.requested hne
  case uartDown => exact fun _ _ => rfl
  case settings => exact h.settings
  case request => exact h.request
  case interval => exact fun hp _ => h.interval hp (by omega)
  case atRest => exact nofun
  all_goals exact fun hle => absurd hle (by omega)

/-- R155. -/
theorem drain (h : s.SequenceInv) (hfsm : s.fsm = .drain) (hd : s.drained = true) :
    State.SequenceInv { s with fsm := .clear } := by
  have hne : s.fsm ≠ .rest := by simp [hfsm]
  have hbefore : s.phase = 2 := by simp [State.phase, hfsm, fsmCode]
  have hphase : State.phase { s with fsm := .clear } = 3 := rfl
  constructor
  case paused => exact fun _ => h.paused hne
  case requested => exact fun _ => h.requested hne
  case uartDown => exact fun _ _ => h.uartDown (by omega) (by omega)
  case drained => exact fun _ => hd
  case settings => exact h.settings
  case request => exact h.request
  case interval => exact fun hp _ => h.interval hp (by omega)
  case atRest => exact nofun
  all_goals exact fun hle => absurd hle (by omega)

/-- R156. -/
theorem clear (h : s.SequenceInv) (hfsm : s.fsm = .clear) : (clearStep s).SequenceInv := by
  have hne : s.fsm ≠ .rest := by simp [hfsm]
  have hbefore : s.phase = 3 := by simp [State.phase, hfsm, fsmCode]
  have hphase : (clearStep s).phase = 4 := rfl
  constructor
  case paused => exact fun _ => h.paused hne
  case requested => exact fun _ => h.requested hne
  case uartDown => exact fun _ _ => h.uartDown (by omega) (by omega)
  case drained =>
    obtain ⟨hrd, hwr⟩ := s.drained_iff.1 (h.drained (by omega))
    exact fun _ => (clearStep s).drained_iff.2 ⟨Fifo.clear_rdLease hrd, Fifo.clear_wrLease hwr⟩
  case cleared => exact fun _ => ⟨Fifo.clear_clear _, Fifo.clear_clear _⟩
  case settings => exact h.settings
  case request => exact h.request
  case interval => exact fun hp _ => h.interval hp (by omega)
  case atRest => exact nofun
  all_goals exact fun hle => absurd hle (by omega)

/-- R157. -/
theorem validate (h : s.SequenceInv) (hfsm : s.fsm = .validate) : (validateStep s).SequenceInv := by
  have hne : s.fsm ≠ .rest := by simp [hfsm]
  have hbefore : s.phase = 4 := by simp [State.phase, hfsm, fsmCode]
  have hphase : (validateStep s).phase = 5 := rfl
  constructor
  case paused => exact fun _ => h.paused hne
  case requested => exact fun _ => h.requested hne
  case uartDown => exact fun _ _ => h.uartDown (by omega) (by omega)
  case drained => exact fun _ => h.drained (by omega)
  case cleared => exact fun _ => h.cleared (by omega)
  case resolved => exact fun _ => ⟨rfl, rfl, rfl⟩
  case settings => exact fun _ => rfl
  case request => exact fun _ => h.requested hne
  case interval => exact fun _ hp => absurd hphase hp
  case atRest => exact nofun
  all_goals exact fun hle => absurd hle (by omega)

/-- R159. -/
theorem retime (h : s.SequenceInv) (hfsm : s.fsm = .retime) : (retimeStep s).SequenceInv := by
  have hne : s.fsm ≠ .rest := by simp [hfsm]
  have hbefore : s.phase = 5 := by simp [State.phase, hfsm, fsmCode]
  obtain ⟨hvalid, hconfig⟩ := h.resolved (by omega)
  have hphase : (retimeStep s).phase = 6 := rfl
  constructor
  case paused => exact fun _ => h.paused hne
  case requested => exact fun _ => h.requested hne
  case uartDown => exact fun _ _ => h.uartDown (by omega) (by omega)
  case uartUp => exact fun hp => absurd hp (by omega)
  case drained => exact fun _ => h.drained (by omega)
  case cleared => exact fun _ => h.cleared (by omega)
  case resolved => exact fun _ => ⟨hvalid, hconfig⟩
  case retimed => exact fun _ => rfl
  case settings => exact fun _ => hvalid
  case request => exact h.request
  case interval => exact fun _ _ => rfl
  case atRest => exact nofun

/-- R160. -/
theorem reinit (h : s.SequenceInv) (hfsm : s.fsm = .reinit) : (reinitStep s).SequenceInv := by
  have hne : s.fsm ≠ .rest := by simp [hfsm]
  have hbefore : s.phase = 6 := by simp [State.phase, hfsm, fsmCode]
  have hphase : (reinitStep s).phase = 7 := rfl
  constructor
  case paused => exact fun _ => h.paused hne
  case requested => exact fun _ => h.requested hne
  case uartDown => exact fun _ hle => absurd hle (by omega)
  case uartUp => exact fun _ => rfl
  case drained => exact fun _ => h.drained (by omega)
  case cleared => exact fun _ => h.cleared (by omega)
  case resolved => exact fun _ => h.resolved (by omega)
  case retimed => exact fun _ => h.retimed (by omega)
  case settings => exact h.settings
  case request => exact h.request
  case interval => exact fun hp _ => h.interval hp (by omega)
  case atRest => exact nofun

/-- R161. -/
theorem resume (h : s.SequenceInv) (hfsm : s.fsm = .resume) : (resumeStep s).SequenceInv := by
  have hbefore : s.phase = 7 := by simp [State.phase, hfsm, fsmCode]
  have hup := h.uartUp hbefore
  have hpoll := h.retimed (by omega)
  have hvalid := h.settings hpoll
  have hphase : (resumeStep s).phase = 0 := rfl
  constructor
  case paused => exact fun hne => absurd rfl hne
  case requested => exact fun hne => absurd rfl hne
  case settings => exact h.settings
  case request => exact h.request
  case interval => exact fun hp _ => h.interval hp (by omega)
  case atRest => exact fun _ => ⟨hup.trans hvalid.symm, hpoll.trans hvalid.symm⟩
  all_goals exact fun hle => absurd hle (by omega)

end State.SequenceInv

/-- R156: CLEAR keeps the invariant of every FIFO. -/
theorem State.Inv.clearStep {s : State} (h : s.Inv) (hseq : (clearStep s).SequenceInv) : (clearStep s).Inv := by
  refine .of_fifo (fun f => ?_) hseq
  rw [State.fifoInv_iff_sound, fifo_clearStep]
  exact (h.sound f).clear

theorem State.Inv.fsmStep {s t : State} (h : s.Inv) (hstep : Machine.fsmStep s = some t) : t.Inv := by
  have hseq := h.sequence
  obtain ⟨hfsm, rfl⟩ | ⟨hfsm, hd, rfl⟩ | ⟨hfsm, rfl⟩ | ⟨hfsm, rfl⟩ | ⟨hfsm, rfl⟩ | ⟨hfsm, rfl⟩ | ⟨hfsm, rfl⟩ :=
    fsmStep_cases hstep
  · exact h.of_sequence rfl (fun f => by cases f <;> rfl) (hseq.teardown hfsm)
  · exact h.of_sequence rfl (fun f => by cases f <;> rfl) (hseq.drain hfsm hd)
  · exact h.clearStep (hseq.clear hfsm)
  · exact h.of_sequence rfl (fun f => by cases f <;> rfl) (hseq.validate hfsm)
  · exact h.of_sequence rfl (fun f => by cases f <;> rfl) (hseq.retime hfsm)
  · exact h.of_sequence rfl (fun f => by cases f <;> rfl) (hseq.reinit hfsm)
  · exact h.of_sequence rfl (fun f => by cases f <;> rfl) (hseq.resume hfsm)

/-! ## Hardware reset -/

theorem State.fifo_hardReset (s : State) (f : FifoId) : s.hardReset.fifo f = Fifo.reset := by cases f <;> rfl

/-- R38, R220. -/
theorem State.inv_hardReset (s : State) : s.hardReset.Inv := by
  refine .of_fifo (fun f => ?_) ?_
  · rw [State.fifoInv_iff_sound, State.fifo_hardReset]
    exact .reset _ _
  · constructor <;> simp [State.hardReset, State.reset, State.phase, fsmCode]

/-- The hardware reset of the state after hardware reset is that state. -/
theorem State.hardReset_reset : State.reset.hardReset = State.reset := rfl

/-- Settles O52: `State.reset` is what a hardware reset leaves. -/
theorem resetMeetsInvariant : Obligations.ResetMeetsInvariant := State.reset.inv_hardReset

/-! ## Every step -/

theorem State.Inv.internalStep {s t : State} {m : Move} (h : s.Inv) (hstep : Machine.internalStep m s = some t) :
    t.Inv := by
  cases m with
  | port p => cases hstep
  | launchPut f => exact h.launchPut hstep
  | landPut f => exact h.landPut hstep
  | launchGet f => exact h.launchGet hstep
  | landGet f => exact h.landGet hstep
  | fsm => exact h.fsmStep hstep
  | hardReset =>
    cases hstep
    exact s.inv_hardReset

/-- Settles O51, by the three effects of a step. -/
theorem stepKeepsInvariant : Obligations.StepKeepsInvariant := by
  intro s t h hstep
  cases step_effect hstep with
  | idle hcore => exact h.congr hcore
  | command _ hcore _ heff => exact heff.inv (h.congr hcore)
  | internal hcore hint => exact (h.congr hcore).internalStep hint

end Sys2Proof.Machine
end

section
/-! Commands with one exact next state: the queries (spec/41_byte_and_query.md R92, R93), the opening of windows
(spec/43_zero_copy.md R110, R112), INIT that constructs (spec/40_lifecycle.md R80), LINE_CODING
(spec/46_control.md R151); the order of the sequencer (R153) and hardware reset (spec/70_reset_and_hazards.md R220). -/

namespace Sys2Proof.Machine

open Sys2Proof

/-! ## Queries -/

/-- R62: a count that fits an index is its own response value. -/
theorem countVal_eq_ofNat {n : Nat} (h : n < 65536) : countVal n = BitVec.ofNat 24 n := by
  apply BitVec.eq_of_toNat_eq
  simp only [countVal, BitVec.toNat_setWidth, BitVec.toNat_ofNat]
  omega

/-- R17: the occupancy in the view of a side. -/
def Fifo.occAt (x : Fifo) : Side → Nat
  | .producer => x.occP.toNat
  | .consumer => x.occC.toNat

/-- R17: the free space in the view of a side. -/
def Fifo.freeAt (x : Fifo) : Side → Nat
  | .producer => x.freeP
  | .consumer => x.freeC

/-- R17: occupancy and free space, in either view, make up the ring but for its reserved slot. -/
theorem Fifo.Shape.occAt_add_freeAt {x : Fifo} {d : Nat} (h : x.Shape d) (hv : x.valid = true) (side : Side) :
    x.occAt side + x.freeAt side + 1 = x.capacity.toNat := by
  cases side with
  | producer =>
    have hlt := h.span_lt_capacity hv x.putIndex x.getSeen
    rw [← Fifo.occP_toNat] at hlt
    simp only [Fifo.occAt, Fifo.freeAt, Fifo.freeP]
    omega
  | consumer =>
    have hlt := h.span_lt_capacity hv x.putSeen x.getIndex
    rw [← Fifo.occC_toNat] at hlt
    simp only [Fifo.occAt, Fifo.freeAt, Fifo.freeC]
    omega

theorem exec_elems_admitted {s : State} {f : FifoId} {side : Side} (h : s.Admitted f side .query) :
    exec .elems s = .next (s.respond (okWith (countVal ((s.fifo f).occAt side)))) := by
  rw [exec, execElems, State.atEitherSide_admitted h]
  cases side <;> rfl

theorem exec_free_admitted {s : State} {f : FifoId} {side : Side} (h : s.Admitted f side .query) :
    exec .free s = .next (s.respond (okWith (countVal ((s.fifo f).freeAt side)))) := by
  rw [exec, execFree, State.atEitherSide_admitted h]
  cases side <;> rfl

/-- Settles O17. -/
theorem elemsAndFreeAnswerTheView : Obligations.ElemsAndFreeAnswerTheView := by
  intro s f side hadm h
  have hcap := h.capacity_bounds hadm.valid
  have hsum := h.occAt_add_freeAt hadm.valid side
  refine ⟨(s.fifo f).occAt side, (s.fifo f).freeAt side, hsum, by cases side <;> rfl, ?_, ?_⟩
  · rw [exec_elems_admitted hadm, countVal_eq_ofNat (by omega)]
  · rw [exec_free_admitted hadm, countVal_eq_ofNat (by omega)]

/-! ## Opening windows -/

theorem windowOf_eq {ptr : Index} {run : Nat} (h : run < 65536) :
    windowOf ptr run =
      if BitVec.ofNat 16 run = 0#16 then none else some { ptr := ptr, run := BitVec.ofNat 16 run } := by
  have hzero : BitVec.ofNat 16 run = 0#16 ↔ run = 0 := by
    rw [← BitVec.toNat_inj]
    simp [Nat.mod_eq_of_lt h]
  simp only [windowOf, hzero]

/-- Settles O20. -/
theorem peekROpensReadWindow : Obligations.PeekROpensReadWindow := by
  intro s f hadm h
  have hrun : (s.fifo f).readRun < 65536 := (Nat.min_le_left _ _).trans_lt (s.fifo f).occC.isLt
  refine ⟨_, BitVec.ofNat 16 (s.fifo f).readRun, by rw [exec, execPeekR, State.atSide_admitted hadm]; rfl,
    Nat.mod_eq_of_lt hrun, ?answer, ?lease, by simp, by simp⟩
  case answer => exact State.respond_response_of _ _ (State.setRdLease_active _ _ _)
  case lease => simpa using windowOf_eq hrun

/-- R112: the three cases of the writable run, by where the producer sees the consumer. -/
theorem Fifo.Shape.writeRun_eq {x : Fifo} {d : Nat} (h : x.Shape d) (hv : x.valid = true) :
    x.writeRun =
      if x.getSeen = 0#16 then x.capacity.toNat - 1 - x.putIndex.toNat
      else if x.getSeen.toNat ≤ x.putIndex.toNat then x.capacity.toNat - x.putIndex.toNat
      else x.getSeen.toNat - x.putIndex.toNat - 1 := by
  obtain ⟨hput, -, -, hseen⟩ := h.indices
  have hmask := h.maskIs hv
  have hzero : x.getSeen = 0#16 ↔ x.getSeen.toNat = 0 := by rw [← BitVec.toNat_inj]; rfl
  simp only [Fifo.writeRun, Fifo.freeP, Fifo.occP_toNat, h.span_eq hv hput hseen, hzero]
  split_ifs <;> omega

/-- Settles O22. -/
theorem peekWOpensWriteWindow : Obligations.PeekWOpensWriteWindow := by
  intro s f hadm h
  have hcap := h.capacity_bounds hadm.valid
  have hfree : (s.fifo f).writeRun ≤ (s.fifo f).freeP := Nat.min_le_left _ _
  have hrun : (s.fifo f).writeRun < 65536 := by unfold Fifo.freeP at hfree; omega
  refine ⟨_, BitVec.ofNat 16 (s.fifo f).writeRun, by rw [exec, execPeekW, State.atSide_admitted hadm]; rfl,
    (Nat.mod_eq_of_lt hrun).trans (h.writeRun_eq hadm.valid), ?answer, ?lease, by simp, by simp⟩
  case answer => exact State.respond_response_of _ _ (State.setWrLease_active _ _ _)
  case lease => simpa using windowOf_eq hrun

/-! ## Control commands -/

theorem exec_init_constructs {s : State} {f : FifoId} {c : BitVec 24} (hk : s.active = .k) (hrest : s.fsm = .rest)
    (hv : (s.fifo f).valid = false) (hf : (s.fifo f).failed = false) (hpow : isPowerOfTwo c = true)
    (hd : c.toNat ≤ s.depth f) :
    exec (.init f c) s = .next ((s.setFifo f ((s.fifo f).construct c)).respond (okWith 0#24)) := by
  simp [exec, execInit, State.atControlInRest_accepted hk hrest, hv, hf, hpow, Nat.not_lt.2 hd, State.done_eq_okWith]

/-- Settles O13. -/
theorem initConstructsInstance : Obligations.InitConstructsInstance := by
  intro s f c k hk hrest hv hf hc hd
  have hle := hd.trans (s.depth_le f)
  have hpos : 1 ≤ c.toNat := hc ▸ Nat.one_le_two_pow
  refine ⟨_, exec_init_constructs hk hrest hv hf ((isPowerOfTwo_iff c).2 ⟨k, hc⟩) hd,
    State.respond_response_of _ _ (State.setFifo_active _ _ _), ?_⟩
  rw [State.fifo_respond, State.fifo_setFifo_same]
  exact ⟨rfl, hf, Fifo.construct_capacity _ hle, Fifo.construct_mask _ hpos hle, rfl, rfl, rfl, rfl, rfl, rfl, rfl, rfl,
    rfl, rfl⟩

theorem exec_lineCoding_accepted {s : State} (stopRaw parityRaw dataRaw : Byte) (baud : Word) (hk : s.active = .k)
    (hrest : s.fsm = .rest) :
    exec (.lineCoding stopRaw parityRaw dataRaw baud) s =
      .next ((s.enterReconfiguration
        { baud := baud, dataRaw := dataRaw, parityRaw := parityRaw, stopRaw := stopRaw }).respond (okWith 0#24)) := by
  rw [exec, execLineCoding, State.atControlInRest_accepted hk hrest, State.done_eq_okWith]

/-- Settles O29. -/
theorem lineCodingEntersReconfiguration : Obligations.LineCodingEntersReconfiguration := by
  intro s stopRaw parityRaw dataRaw baud hk hrest
  refine ⟨_, exec_lineCoding_accepted stopRaw parityRaw dataRaw baud hk hrest, State.respond_response _ _, ?_⟩
  simp [State.enterReconfiguration]

/-! ## The sequencer and hardware reset -/

theorem fsmStep_eq_none_iff (s : State) :
    fsmStep s = none ↔ s.fsm = .rest ∨ (s.fsm = .drain ∧ s.drained = false) := by
  cases hfsm : s.fsm <;> simp [fsmStep, drainStep, hfsm]

/-- R153: each sequencer step goes to the next state of the fixed order. -/
theorem fsmStep_phase {s t : State} (h : fsmStep s = some t) : t.phase = (s.phase + 1) % 8 := by
  obtain ⟨hfsm, rfl⟩ | ⟨hfsm, -, rfl⟩ | ⟨hfsm, rfl⟩ | ⟨hfsm, rfl⟩ | ⟨hfsm, rfl⟩ | ⟨hfsm, rfl⟩ | ⟨hfsm, rfl⟩ :=
    fsmStep_cases h <;> rw [State.phase, State.phase, hfsm] <;> rfl

/-- Settles O39. -/
theorem sequencerOrder : Obligations.SequencerOrder := by
  refine fun s => ⟨?_, fun t => fsmStep_phase⟩
  rw [fsmStep_eq_none_iff, ← Bool.not_eq_true, State.drained_iff, not_and_or]

/-- Settles O53. -/
theorem hardResetLeavesSpecifiedValues : Obligations.HardResetLeavesSpecifiedValues := by
  refine ⟨fun s => ⟨s.hardReset, rfl, s.fifo_hardReset .h2d, s.fifo_hardReset .d2h, rfl, rfl, rfl, rfl, rfl, rfl, rfl,
    rfl, rfl, rfl⟩, State.hardReset_reset, ?_⟩
  simp [Fifo.reset, Memory.read]

end Sys2Proof.Machine
end

section
/-! RDREG (spec/46_control.md R152): its next state by what the register number names, and the register words as numbers
(spec/10_state.md R31 to R34). -/

namespace Sys2Proof.Machine

open Sys2Proof

/-! ## The three ways of RDREG -/

section Rdreg

variable {s : State} {f : FifoId} {n : BitVec 8}

theorem exec_rdreg_specified (r : Reg) {w : Word} (hk : s.active = .k) (hsel : Reg.select f n = some r)
    (hspec : s.specified r = true) (hw : s.regWord f r = w) :
    exec (.rdreg f n) s = .next (s.respond (rdregAnswer w)) := by
  subst hw
  simp only [exec, execRdreg, State.atControl, hk, hsel, hspec, if_true]
  rfl

theorem exec_rdreg_unspecified (r : Reg) (hk : s.active = .k) (hsel : Reg.select f n = some r)
    (hspec : s.specified r = false) :
    exec (.rdreg f n) s =
      .next (State.respond { s with draws := s.draws + 1 }
        (rdregAnswer (Config.freeWord s.draws &&& r.fieldBits))) := by
  simp only [exec, execRdreg, State.atControl, hk, hsel, hspec, if_true, Bool.false_eq_true, if_false]
  rfl

theorem exec_rdreg_unassigned (hk : s.active = .k) (hsel : Reg.select f n = none) :
    exec (.rdreg f n) s = .next (s.respond (errorAnswer (.rdreg f n) .illegal)) := by
  simp only [exec, execRdreg, State.atControl, hk, hsel, if_true]
  rfl

end Rdreg

/-- R31: the numbers the map leaves out. -/
theorem Reg.select_unassigned (f : FifoId) {n : BitVec 8} (h : (0x08 < n.toNat ∧ n.toNat < 0x10) ∨ 0x16 < n.toNat) :
    Reg.select f n = none := by
  have hnone : Reg.ofNumber n = none := by
    unfold Reg.ofNumber
    split
    case h_17 => rfl
    all_goals omega
  simp [Reg.select, hnone]

/-- R31: a global register is not named with `f` = 1. -/
theorem Reg.select_global_d2h {n : BitVec 8} (h : 0x10 ≤ n.toNat) : Reg.select .d2h n = none := by
  simp [Reg.select, h]

/-! ## Register words as numbers -/

theorem append_eq_ofNat {v w : Nat} (x : BitVec v) (y : BitVec w) :
    x ++ y = BitVec.ofNat (v + w) (2 ^ w * x.toNat + y.toNat) := by
  apply BitVec.eq_of_toNat_eq
  rw [BitVec.toNat_append, Nat.shiftLeft_eq, mul_comm, ← Nat.two_pow_add_eq_or_of_lt y.isLt, BitVec.toNat_ofNat]
  refine (Nat.mod_eq_of_lt ?_).symm
  rw [pow_add, mul_comm]
  nlinarith [x.isLt, y.isLt]

theorem fstatusWord_eq (x : Fifo) :
    fstatusWord x = BitVec.ofNat 32
      (x.valid.toNat + 2 * x.failed.toNat + 4 * x.rdLease.isSome.toNat + 8 * x.wrLease.isSome.toNat +
        16 * x.putMail.isSome.toNat + 32 * x.getMail.isSome.toNat + 64 * x.fault.toNat) := by
  unfold fstatusWord
  generalize x.valid = a, x.failed = b, x.rdLease.isSome = c, x.wrLease.isSome = d, x.putMail.isSome = e,
    x.getMail.isSome = g, x.fault = h
  revert a b c d e g h
  decide

theorem cstatusWord_eq (s : State) :
    cstatusWord s = BitVec.ofNat 32
      (s.paused.toNat + 2 * s.uartUp.toNat + 4 * (decide (s.link = .active)).toNat + 8 * s.coerced.toNat +
        16 * s.cfgValid.toNat) := by
  unfold cstatusWord
  generalize s.paused = a, s.uartUp = b, decide (s.link = .active) = c, s.coerced = d, s.cfgValid = e
  revert a b c d e
  decide

theorem leaseWord_some (l : Lease) : leaseWord (some l) = BitVec.ofNat 32 (65536 * l.run.toNat + l.ptr.toNat) :=
  append_eq_ofNat l.run l.ptr

theorem reqFrameWord_eq (r : ReqCfg) :
    reqFrameWord r =
      BitVec.ofNat 32 (65536 * r.stopRaw.toNat + 256 * r.parityRaw.toNat + r.dataRaw.toNat) := by
  have hstop := r.stopRaw.isLt
  have hparity := r.parityRaw.isLt
  rw [reqFrameWord, append_eq_ofNat, append_eq_ofNat, append_eq_ofNat]
  congr 1
  simp only [BitVec.toNat_ofNat]
  omega

/-- Settles O30, register by register. -/
theorem rdregReturnsRegisterMap : Obligations.RdregReturnsRegisterMap := by
  intro s f hk
  refine ⟨?_, ?_, ?_, ?_, ?_, ?_, ?_, ?_, ?_, ?_, ?_, ?_, ?_, ?_, ?_, ?_, ?_⟩
  · exact exec_rdreg_specified .capacity hk (by cases f <;> rfl) rfl rfl
  · exact exec_rdreg_specified .mask hk (by cases f <;> rfl) rfl rfl
  · exact exec_rdreg_specified .putIndex hk (by cases f <;> rfl) rfl rfl
  · exact exec_rdreg_specified .getIndex hk (by cases f <;> rfl) rfl rfl
  · exact exec_rdreg_specified .putSeen hk (by cases f <;> rfl) rfl rfl
  · exact exec_rdreg_specified .getSeen hk (by cases f <;> rfl) rfl rfl
  · exact exec_rdreg_specified .fstatus hk (by cases f <;> rfl) rfl (fstatusWord_eq _)
  · exact fun hl => exec_rdreg_specified .rdLease hk (by cases f <;> rfl) rfl (by rw [State.regWord, hl]; rfl)
  · exact fun l hl => exec_rdreg_specified .rdLease hk (by cases f <;> rfl) rfl
      (by rw [State.regWord, hl, leaseWord_some])
  · exact fun hl => exec_rdreg_specified .wrLease hk (by cases f <;> rfl) rfl (by rw [State.regWord, hl]; rfl)
  · exact fun l hl => exec_rdreg_specified .wrLease hk (by cases f <;> rfl) rfl
      (by rw [State.regWord, hl, leaseWord_some])
  · exact exec_rdreg_specified .fsmState hk rfl rfl (by rw [State.regWord]; cases s.fsm <;> rfl)
  · exact exec_rdreg_specified .cstatus hk rfl rfl (cstatusWord_eq s)
  · refine fun hcfg => ⟨exec_rdreg_specified .baud hk rfl hcfg rfl, exec_rdreg_specified .frame hk rfl hcfg ?_,
      fun hpoll => ?_⟩
    · rw [State.regWord, frameWord]
      cases s.lineConfig.dataBits <;> cases s.lineConfig.stopBits <;> cases s.lineConfig.parity <;> rfl
    · exact exec_rdreg_specified .pollInterval hk rfl (by simp [State.specified, hcfg, hpoll]) rfl
  · exact fun hreq => ⟨exec_rdreg_specified .reqBaud hk rfl hreq rfl,
      exec_rdreg_specified .reqFrame hk rfl hreq (reqFrameWord_eq _)⟩
  · exact fun n hn => exec_rdreg_unassigned hk (Reg.select_unassigned f hn)
  · exact fun n hn => exec_rdreg_unassigned hk (Reg.select_global_d2h hn)

/-- Settles O31. -/
theorem rdregOfUnwrittenRegisterIsFree : Obligations.RdregOfUnwrittenRegisterIsFree := by
  intro s hk
  have hall (w : Word) : w &&& 0xFFFFFFFF#32 = w := BitVec.and_allOnes
  refine ⟨fun hcfg => ⟨?_, exec_rdreg_unspecified .frame hk rfl hcfg⟩, fun hpoll => ?_,
    fun hreq => ⟨?_, exec_rdreg_unspecified .reqFrame hk rfl hreq⟩⟩
  · rw [exec_rdreg_unspecified .baud hk rfl hcfg, Reg.fieldBits, hall]
  · have hspec : s.specified .pollInterval = false := by simpa [State.specified, imp_iff_not_or] using hpoll
    rw [exec_rdreg_unspecified .pollInterval hk rfl hspec, Reg.fieldBits, hall]
  · rw [exec_rdreg_unspecified .reqBaud hk rfl hreq, Reg.fieldBits, hall]

end Sys2Proof.Machine
end

section
/-! Frames (spec/20_memory.md R40): what a command on a FIFO leaves alone, from its effect. -/

namespace Sys2Proof.Machine

open Sys2Proof

/-! ## Outside the FIFO -/

theorem State.samePorts_respond (s : State) (r : Response) : s.SamePorts (s.respond r) :=
  ⟨fun _ hp => s.port_respond_ne r hp, s.respond_words r, s.respond_bytes r⟩

theorem State.frameOutsideFifo_respond (s : State) (r : Response) : s.FrameOutsideFifo (s.respond r) :=
  ⟨s.sameControl_respond r, by constructor <;> simp, s.samePorts_respond r, fun g _ => s.fifo_respond r g⟩

/-- R40: a FIFO changed at its own port, and a response. -/
theorem State.frameOutsideFifo_setFifo_respond {s : State} {f : FifoId} {side : Side}
    (hport : portRole s.active = some (f, side)) (x : Fifo) (r : Response) :
    s.FrameOutsideFifo ((s.setFifo f x).respond r) where
  control := (s.sameControl_setFifo f x).trans (State.sameControl_respond _ r)
  turns := by constructor <;> simp
  ports := by
    have h := (s.setFifo f x).samePorts_respond r
    exact ⟨fun p hp => by simpa using h.others p (by simpa using hp), by simpa using h.words, by simpa using h.bytes⟩
  otherFifos := fun g hg => by
    rw [State.fifo_respond, State.fifo_setFifo_ne]
    rintro rfl
    exact hg side hport

theorem Fifo.SameConstruction.refl (x : Fifo) : x.SameConstruction x := ⟨rfl, rfl, rfl, rfl, rfl, rfl⟩
theorem Fifo.SameConsumerSide.refl (x : Fifo) : x.SameConsumerSide x := ⟨rfl, rfl, rfl⟩
theorem Fifo.SameProducerSide.refl (x : Fifo) : x.SameProducerSide x := ⟨rfl, rfl, rfl⟩

/-! ## Inside the FIFO -/

section FifoStep

variable {s : State} {f : FifoId} {side : Side} {i : Instr} {r : Response} {x : Fifo}

theorem State.FifoStep.portRole_eq (h : s.FifoStep f side i r x) : portRole s.active = some (f, side) := by
  obtain ⟨_, hport, -⟩ := h.admitted
  exact hport

/-- R10, R11, R16: no data-port command writes the construction or a mailbox. -/
theorem State.FifoStep.sameConstruction (h : s.FifoStep f side i r x) : (s.fifo f).SameConstruction x := by
  cases h <;> exact ⟨rfl, rfl, rfl, rfl, rfl, rfl⟩

/-- R14: a command at the producer port writes nothing of the consumer's. -/
theorem State.FifoStep.sameConsumerSide (h : s.FifoStep f .producer i r x) : (s.fifo f).SameConsumerSide x := by
  cases h <;> exact ⟨rfl, rfl, rfl⟩

/-- R14: a command at the consumer port writes nothing of the producer's. -/
theorem State.FifoStep.sameProducerSide (h : s.FifoStep f .consumer i r x) : (s.fifo f).SameProducerSide x := by
  cases h <;> exact ⟨rfl, rfl, rfl⟩

/-- R144: without `SYNC_EAGER` no command moves the other side's copy of an index. -/
theorem State.FifoStep.seen_eq (h : s.FifoStep f side i r x) (he : s.params.syncEager = false) :
    x.putSeen = (s.fifo f).putSeen ∧ x.getSeen = (s.fifo f).getSeen := by
  cases h <;> simp [Fifo.published, Fifo.retired, he]

/-- R21, R190: the fault bit changes only by a command on a window, and only with `Contract`. -/
theorem State.FifoStep.fault (h : s.FifoStep f side i r x) :
    x.fault = (s.fifo f).fault ∨ (i.windowSide = some side ∧ r = errorAnswer i .contract ∧ x.fault = true) := by
  cases h with
  | breach _ hi => exact .inr ⟨hi, rfl, rfl⟩
  | _ => exact .inl rfl

/-- R190: `Contract` is the response of a breach alone. -/
theorem State.FifoStep.fault_of_contract (h : s.FifoStep f side i r x) (hr : r.status = .contract) :
    x.fault = true := by
  cases h with
  | breach => rfl
  | take _ _ _ _ hok | openRead _ hok | openWrite _ hok => simp [hok] at hr
  | store | retire | publish | storeByte => cases hr

/-- R60: a command that works on a FIFO stands at a port that accepts it. -/
theorem State.FifoStep.accepted (h : s.FifoStep f side i r x) :
    (side = .producer ∧ i.onProducerPort = true) ∨ (side = .consumer ∧ i.onConsumerPort = true) := by
  cases h with
  | breach _ hi => cases i <;> simp_all [Instr.windowSide, Instr.onProducerPort, Instr.onConsumerPort]
  | store _ hi => cases i <;> simp_all [Instr.storedBytes, Instr.onProducerPort]
  | take _ hi => cases i <;> simp_all [Instr.takenCount, Instr.onConsumerPort]
  | openWrite | publish | storeByte => exact .inl ⟨rfl, rfl⟩
  | openRead | retire => exact .inr ⟨rfl, rfl⟩

theorem State.FifoStep.at_producer (h : s.FifoStep f side i r x) (hi : i.onConsumerPort = false) :
    s.FifoStep f .producer i r x := by
  obtain ⟨rfl, -⟩ | ⟨-, hc⟩ := h.accepted
  · exact h
  · simp [hi] at hc

theorem State.FifoStep.at_consumer (h : s.FifoStep f side i r x) (hi : i.onProducerPort = false) :
    s.FifoStep f .consumer i r x := by
  obtain ⟨-, hp⟩ | ⟨rfl, -⟩ := h.accepted
  · simp [hi] at hp
  · exact h

/-- R40, R41: PUT and BULK_WRITE write only the slots from `put_index` on. -/
theorem State.FifoStep.read_of_stored {bytes : List Byte} (h : s.FifoStep f side i r x)
    (hb : i.storedBytes = some bytes) {a : Nat} (ha : ∀ k < bytes.length, a ≠ s.putAddr f k) :
    Memory.read x.storage a = Memory.read (s.fifo f).storage a := by
  cases h with
  | store _ hi _ hm =>
    obtain rfl := Option.some.inj (hi.symm.trans hb)
    obtain ⟨-, hread, -⟩ := State.memWrite_storage hm
    exact hread a ha
  | storeByte => cases hb
  | _ => rfl

/-- Commands but PUT, BULK_WRITE and STB write no storage byte. -/
theorem State.FifoStep.storage_eq (h : s.FifoStep f side i r x) (hb : i.storedBytes = none)
    (hi : ∀ addr b, i ≠ .stb addr b) : x.storage = (s.fifo f).storage := by
  cases h with
  | store _ hi => simp [hb] at hi
  | storeByte => exact absurd rfl (hi _ _)
  | _ => rfl

/-- R115: STB writes no byte but the one at `addr`. -/
theorem State.FifoStep.read_of_stb {addr : Index} {b : Byte} (h : s.FifoStep f side (.stb addr b) r x) {a : Nat}
    (ha : a ≠ addr.toNat) : Memory.read x.storage a = Memory.read (s.fifo f).storage a := by
  cases h with
  | breach => rfl
  | store _ hi | take _ hi => cases hi
  | storeByte => exact Memory.read_write_ne _ b ha

/-- R115: STB moves no index and keeps its window. -/
theorem State.FifoStep.sameProducerSide_of_stb {addr : Index} {b : Byte} (h : s.FifoStep f side (.stb addr b) r x) :
    (s.fifo f).SameProducerSide x := by
  cases h with
  | breach | storeByte => exact ⟨rfl, rfl, rfl⟩
  | store _ hi | take _ hi => cases hi

/-- R112. -/
theorem State.FifoStep.indices_of_peekW (h : s.FifoStep f side .peekW r x) :
    x.putIndex = (s.fifo f).putIndex ∧ x.putSeen = (s.fifo f).putSeen := by
  cases h with
  | breach | openWrite => exact ⟨rfl, rfl⟩
  | store _ hi | take _ hi => cases hi

/-- R110. -/
theorem State.FifoStep.indices_of_peekR (h : s.FifoStep f side .peekR r x) :
    x.getIndex = (s.fifo f).getIndex ∧ x.getSeen = (s.fifo f).getSeen := by
  cases h with
  | breach | openRead => exact ⟨rfl, rfl⟩
  | store _ hi | take _ hi => cases hi

end FifoStep

/-- A data-port command that ends leaves everything outside its FIFO alone, and each FIFO as it was or as a
`State.FifoStep` makes it, with that step's response. -/
theorem exec_frame {s t : State} {i : Instr} {cls : CommandClass} (hi : i.commandClass = some cls)
    (h : exec i s = .next t) :
    s.FrameOutsideFifo t ∧ ∀ f, t.fifo f = s.fifo f ∨ ∃ side r, s.FifoStep f side i r (t.fifo f) ∧ s.Answered t r := by
  cases exec_effect h with
  | answer => exact ⟨s.frameOutsideFifo_respond _, fun f => .inl (s.fifo_respond _ f)⟩
  | @fifo _ g side r x hstep =>
    refine ⟨State.frameOutsideFifo_setFifo_respond hstep.portRole_eq x r, fun f => ?_⟩
    by_cases hf : f = g
    · subst hf
      refine .inr ⟨side, r, by simpa using hstep, State.respond_response_of _ _ (s.setFifo_active f x)⟩
    · exact .inl (by rw [State.fifo_respond, s.fifo_setFifo_ne x hf])
  | initFailed | initDone | linkUp | linkDown | reconfigure | draw => cases hi

/-! ## The frames -/

/-- Settles O32. -/
theorem framePutBulkWrite : Obligations.FramePutBulkWrite := by
  intro i payload hi s t h
  obtain ⟨hbytes, hclass, hport, hwindow⟩ : i.storedBytes = some payload ∧ i.commandClass = some .move ∧
      i.onConsumerPort = false ∧ i.windowSide = none := by
    obtain ⟨b, rfl, rfl⟩ | rfl := hi <;> exact ⟨rfl, rfl, rfl, rfl⟩
  obtain ⟨hout, hfifo⟩ := exec_frame hclass h
  refine ⟨hout, fun f => ?_⟩
  obtain heq | ⟨side, r, hstep, -⟩ := hfifo f
  · rw [heq]
    exact ⟨.refl _, .refl _, rfl, fun _ => rfl, fun _ _ => rfl⟩
  · exact ⟨hstep.sameConstruction, (hstep.at_producer hport).sameConsumerSide,
      hstep.fault.resolve_right (by simp [hwindow]), fun he => (hstep.seen_eq he).1,
      fun a ha => hstep.read_of_stored hbytes ha⟩

/-- Settles O33. -/
theorem frameStb : Obligations.FrameStb := by
  intro addr b s t h
  obtain ⟨hout, hfifo⟩ := exec_frame (i := .stb addr b) rfl h
  refine ⟨hout, fun f => ?_⟩
  obtain heq | ⟨side, r, hstep, hanswer⟩ := hfifo f
  · rw [heq]
    exact ⟨.refl _, .refl _, .refl _, .inl rfl, fun _ _ => rfl⟩
  · refine ⟨hstep.sameConstruction, (hstep.at_producer rfl).sameConsumerSide, hstep.sameProducerSide_of_stb,
      hstep.fault.imp_right ?_, fun a ha => hstep.read_of_stb ha⟩
    rintro ⟨-, rfl, -⟩
    exact hanswer

/-- Settles O34. -/
theorem framePeekWMarkP : Obligations.FramePeekWMarkP := by
  intro i hi s t h
  obtain ⟨⟨cls, hclass⟩, hport, hbytes, hstb⟩ : (∃ cls, i.commandClass = some cls) ∧ i.onConsumerPort = false ∧
      i.storedBytes = none ∧ ∀ addr b, i ≠ .stb addr b := by
    obtain rfl | ⟨len, rfl⟩ := hi <;> exact ⟨⟨_, rfl⟩, rfl, rfl, nofun⟩
  obtain ⟨hout, hfifo⟩ := exec_frame hclass h
  refine ⟨hout, fun f => ?_⟩
  obtain heq | ⟨side, r, hstep, hanswer⟩ := hfifo f
  · rw [heq]
    exact ⟨.refl _, .refl _, fun _ => ⟨rfl, rfl⟩, fun _ => rfl, .inl rfl, fun _ => rfl⟩
  · refine ⟨hstep.sameConstruction, (hstep.at_producer hport).sameConsumerSide, ?peek,
      fun he => (hstep.seen_eq he).1, hstep.fault.imp_right ?fault, fun a => by rw [hstep.storage_eq hbytes hstb]⟩
    case peek => rintro rfl; exact hstep.indices_of_peekW
    case fault =>
      rintro ⟨hwindow, rfl, -⟩
      exact ⟨by rintro rfl; simp [Instr.windowSide] at hwindow, hanswer⟩

/-- Settles O35. -/
theorem frameConsumerMoves : Obligations.FrameConsumerMoves := by
  intro i hi s t h
  obtain ⟨⟨cls, hclass⟩, hport, hbytes, hstb⟩ : (∃ cls, i.commandClass = some cls) ∧ i.onProducerPort = false ∧
      i.storedBytes = none ∧ ∀ addr b, i ≠ .stb addr b := by
    obtain rfl | ⟨len, rfl⟩ | rfl | ⟨len, rfl⟩ := hi <;> exact ⟨⟨_, rfl⟩, rfl, rfl, nofun⟩
  obtain ⟨hout, hfifo⟩ := exec_frame hclass h
  refine ⟨hout, fun f => ?_⟩
  obtain heq | ⟨side, r, hstep, hanswer⟩ := hfifo f
  · rw [heq]
    exact ⟨.refl _, .refl _, fun _ => ⟨rfl, rfl⟩, fun _ => rfl, .inl rfl, fun _ => rfl⟩
  · refine ⟨hstep.sameConstruction, (hstep.at_consumer hport).sameProducerSide, ?peek,
      fun he => (hstep.seen_eq he).2, hstep.fault.imp_right ?fault, fun a => by rw [hstep.storage_eq hbytes hstb]⟩
    case peek => rintro rfl; exact hstep.indices_of_peekR
    case fault =>
      rintro ⟨hwindow, rfl, -⟩
      obtain rfl | ⟨len, rfl⟩ | rfl | hmark := hi
      · simp [Instr.windowSide] at hwindow
      · simp [Instr.windowSide] at hwindow
      · simp [Instr.windowSide] at hwindow
      · exact ⟨hmark, hanswer⟩

end Sys2Proof.Machine
end

section
/-! Rules of the whole machine (spec/10_state.md R10, R11, R14, R21, R26, R30; spec/40_lifecycle.md R83), from the
effects of a step. -/

namespace Sys2Proof.Machine

open Sys2Proof

/-! ## What lasts through every step but a hardware reset -/

/-- R10, R11, R21, R83: a set fault bit stays, a constructed FIFO stays as constructed, a failed one stays failed. -/
structure Fifo.LastsIn (x y : Fifo) : Prop where
  fault : x.fault = true → y.fault = true
  constructed : x.valid = true → y.valid = true ∧ y.capacity = x.capacity ∧ y.mask = x.mask ∧ y.failed = x.failed
  failed : x.failed = true → y.failed = true ∧ y.valid = x.valid

theorem Fifo.LastsIn.of_same {x y : Fifo} (hfault : x.fault = true → y.fault = true) (hv : y.valid = x.valid)
    (hf : y.failed = x.failed) (hc : y.capacity = x.capacity) (hm : y.mask = x.mask) : x.LastsIn y where
  fault := hfault
  constructed := fun h => ⟨hv.trans h, hc, hm, hf⟩
  failed := fun h => ⟨hf.trans h, hv⟩

theorem Fifo.LastsIn.refl (x : Fifo) : x.LastsIn x := .of_same id rfl rfl rfl rfl

theorem Fifo.lastsIn_clear (x : Fifo) : x.LastsIn x.clear := by
  obtain ⟨hv, hf, hc, hm, -, hfault⟩ := x.clear_keeps
  exact .of_same hfault.trans hv hf hc hm

theorem State.lastsIn_setFifo {s : State} {f : FifoId} {x : Fifo} (h : (s.fifo f).LastsIn x) (g : FifoId) :
    (s.fifo g).LastsIn ((s.setFifo f x).fifo g) := by
  by_cases hg : g = f
  · subst hg
    simpa using h
  · rw [s.fifo_setFifo_ne x hg]
    exact .refl _

theorem State.FifoStep.lastsIn {s : State} {f : FifoId} {side : Side} {i : Instr} {r : Response} {x : Fifo}
    (h : s.FifoStep f side i r x) : (s.fifo f).LastsIn x := by
  obtain ⟨hv, hf, hc, hm, -, -⟩ := h.sameConstruction
  refine .of_same (fun hset => ?_) hv hf hc hm
  obtain heq | ⟨-, -, htrue⟩ := h.fault
  · exact heq.trans hset
  · exact htrue

theorem State.ExecEffect.lastsIn {s t : State} {i : Instr} (h : s.ExecEffect i t) (f : FifoId) :
    (s.fifo f).LastsIn (t.fifo f) := by
  cases h with
  | answer => rw [State.fifo_respond]; exact .refl _
  | fifo hstep => rw [State.fifo_respond]; exact State.lastsIn_setFifo hstep.lastsIn f
  | @initFailed g c _ _ hv hf | @initDone g c _ _ hv hf =>
    rw [State.fifo_respond]
    refine State.lastsIn_setFifo ?_ f
    exact ⟨id, by simp [hv], by simp [hf]⟩
  | linkUp | linkDown | reconfigure | draw =>
    rw [State.fifo_respond]
    cases f <;> exact .refl _

/-- R153: of the FIFOs a sequencer step touches nothing, or clears both in CLEAR. -/
theorem fsmStep_fifo {s t : State} (h : fsmStep s = some t) (f : FifoId) :
    t.fifo f = s.fifo f ∨ (s.fsm = .clear ∧ t.fifo f = (s.fifo f).clear) := by
  obtain ⟨-, rfl⟩ | ⟨-, -, rfl⟩ | ⟨hfsm, rfl⟩ | ⟨-, rfl⟩ | ⟨-, rfl⟩ | ⟨-, rfl⟩ | ⟨-, rfl⟩ := fsmStep_cases h
  case inr.inr.inl => exact .inr ⟨hfsm, fifo_clearStep s f⟩
  all_goals exact .inl (by cases f <;> rfl)

/-- An internal step is a synchroniser step, a sequencer step, or the hardware reset. -/
theorem internalStep_cases {m : Move} {s t : State} (h : internalStep m s = some t) :
    (∃ f ps gs pm gm, t = s.setFifo f { s.fifo f with putSeen := ps, getSeen := gs, putMail := pm, getMail := gm }) ∨
      (m = .fsm ∧ fsmStep s = some t) ∨ (m = .hardReset ∧ t = s.hardReset) := by
  cases m with
  | port p => cases h
  | launchPut f => exact .inl ⟨f, sync_keeps (.inl rfl) h⟩
  | landPut f => exact .inl ⟨f, sync_keeps (.inr (.inl rfl)) h⟩
  | launchGet f => exact .inl ⟨f, sync_keeps (.inr (.inr (.inl rfl))) h⟩
  | landGet f => exact .inl ⟨f, sync_keeps (.inr (.inr (.inr rfl))) h⟩
  | fsm => exact .inr (.inl ⟨rfl, h⟩)
  | hardReset => exact .inr (.inr ⟨rfl, (Option.some.inj h).symm⟩)

theorem internalStep_lastsIn {m : Move} {s t : State} (h : internalStep m s = some t) (hm : m ≠ .hardReset)
    (f : FifoId) : (s.fifo f).LastsIn (t.fifo f) := by
  obtain ⟨g, ps, gs, pm, gm, rfl⟩ | ⟨-, hfsm⟩ | ⟨hreset, -⟩ := internalStep_cases h
  · refine State.lastsIn_setFifo ?_ f
    exact .of_same id rfl rfl rfl rfl
  · obtain heq | ⟨-, heq⟩ := fsmStep_fifo hfsm f
    · exact heq ▸ .refl _
    · exact heq ▸ Fifo.lastsIn_clear _
  · exact absurd hreset hm

theorem step_lastsIn {s t : State} (h : step s = .next t) (hm : s.takeTurn.1 ≠ .hardReset) (f : FifoId) :
    (s.fifo f).LastsIn (t.fifo f) := by
  cases step_effect h with
  | idle hcore => exact hcore.fifo f ▸ .refl _
  | command _ hcore _ heff => exact hcore.fifo f ▸ heff.lastsIn f
  | internal hcore hint => exact hcore.fifo f ▸ internalStep_lastsIn hint hm f

/-- R21, R190: a response `Contract` goes with a set fault bit. -/
theorem exec_contract_sets_fault {s t : State} {i : Instr} {f : FifoId} {side : Side} {r : Response}
    (h : exec i s = .next t) (hport : portRole s.active = some (f, side)) (hr : s.Answered t r)
    (hc : r.status = .contract) : (t.fifo f).fault = true := by
  have hcontrol (hk : s.active = .k) : False := by simp [hk, portRole] at hport
  cases exec_effect h with
  | answer hne =>
    obtain rfl := Option.some.inj ((State.respond_response s _).symm.trans hr)
    exact absurd hc hne
  | @fifo _ g side' r' x hstep =>
    obtain rfl : g = f := by simpa [hport, eq_comm] using congrArg (·.map Prod.fst) hstep.portRole_eq
    obtain rfl : r' = r :=
      Option.some.inj ((State.respond_response_of _ r' (s.setFifo_active g x)).symm.trans hr)
    rw [State.fifo_respond, State.fifo_setFifo_same]
    exact hstep.fault_of_contract hc
  | initFailed hk | initDone hk | linkUp hk | linkDown hk | reconfigure hk | draw hk => exact (hcontrol hk).elim

/-- Settles O54. -/
theorem faultBitIsSticky : Obligations.FaultBitIsSticky := by
  refine ⟨fun i s t f side r => exec_contract_sets_fault, fun s t f h hm => (step_lastsIn h hm f).fault, fun s f => ?_⟩
  rw [State.fifo_hardReset]
  rfl

/-- Settles O55. -/
theorem constructionIsPermanent : Obligations.ConstructionIsPermanent :=
  fun _ _ f h hm => ⟨(step_lastsIn h hm f).constructed, (step_lastsIn h hm f).failed⟩

/-! ## Who moves an index -/

theorem portRole_eq_producer {p : PortId} {f : FifoId} (h : portRole p = some (f, .producer)) : p = producerPort f := by
  cases p <;> cases f <;> simp [portRole] at h <;> rfl

theorem portRole_eq_consumer {p : PortId} {f : FifoId} (h : portRole p = some (f, .consumer)) : p = consumerPort f := by
  cases p <;> cases f <;> simp [portRole] at h <;> rfl

/-- R22: only the control port and the two ports of a FIFO change it. -/
theorem State.ExecEffect.fifo_cases {s t : State} {i : Instr} (h : s.ExecEffect i t) (f : FifoId) :
    t.fifo f = s.fifo f ∨ s.active = .k ∨ ∃ side r, s.FifoStep f side i r (t.fifo f) := by
  cases h with
  | answer => exact .inl (s.fifo_respond _ f)
  | @fifo _ g side r x hstep =>
    rw [State.fifo_respond]
    by_cases hf : f = g
    · subst hf
      exact .inr (.inr ⟨side, r, by simpa using hstep⟩)
    · exact .inl (s.fifo_setFifo_ne x hf)
  | initFailed hk | initDone hk | linkUp hk | linkDown hk | reconfigure hk | draw hk => exact .inr (.inl hk)

theorem State.ExecEffect.putIndex_owner {s t : State} {i : Instr} {f : FifoId} (h : s.ExecEffect i t)
    (hne : (t.fifo f).putIndex ≠ (s.fifo f).putIndex) : s.active = producerPort f ∨ s.active = .k := by
  obtain heq | hk | ⟨side, r, hstep⟩ := h.fifo_cases f
  · exact absurd (congrArg Fifo.putIndex heq) hne
  · exact .inr hk
  · cases side with
    | producer => exact .inl (portRole_eq_producer hstep.portRole_eq)
    | consumer => exact absurd hstep.sameProducerSide.putIndex hne

theorem State.ExecEffect.getIndex_owner {s t : State} {i : Instr} {f : FifoId} (h : s.ExecEffect i t)
    (hne : (t.fifo f).getIndex ≠ (s.fifo f).getIndex) : s.active = consumerPort f ∨ s.active = .k := by
  obtain heq | hk | ⟨side, r, hstep⟩ := h.fifo_cases f
  · exact absurd (congrArg Fifo.getIndex heq) hne
  · exact .inr hk
  · cases side with
    | producer => exact absurd hstep.sameConsumerSide.getIndex hne
    | consumer => exact .inl (portRole_eq_consumer hstep.portRole_eq)

/-- R22: an internal step moves an index only in CLEAR or as the hardware reset. -/
theorem internalStep_indices {m : Move} {s t : State} (h : internalStep m s = some t) (f : FifoId) :
    ((t.fifo f).putIndex = (s.fifo f).putIndex ∧ (t.fifo f).getIndex = (s.fifo f).getIndex) ∨
      (m = .fsm ∧ s.fsm = .clear) ∨ m = .hardReset := by
  obtain ⟨g, ps, gs, pm, gm, rfl⟩ | ⟨hm, hfsm⟩ | ⟨hreset, -⟩ := internalStep_cases h
  · refine .inl ?_
    by_cases hg : f = g
    · subst hg
      simp
    · rw [s.fifo_setFifo_ne _ hg]
      exact ⟨rfl, rfl⟩
  · obtain heq | ⟨hclear, -⟩ := fsmStep_fifo hfsm f
    · exact .inl (heq ▸ ⟨rfl, rfl⟩)
    · exact .inr (.inl ⟨hm, hclear⟩)
  · exact .inr (.inr hreset)

/-- Settles O56. -/
theorem indexOwnership : Obligations.IndexOwnership := by
  intro s t f h
  cases step_effect h with
  | idle hcore =>
    rw [hcore.fifo f]
    exact ⟨fun hne => absurd rfl hne, fun hne => absurd rfl hne⟩
  | @command u p i hturn hcore hp heff =>
    rw [hturn, ← hcore.fifo f]
    refine ⟨fun hne => ?_, fun hne => ?_⟩
    · obtain hport | hk := heff.putIndex_owner hne
      · exact .inl (by rw [← hp, hport])
      · exact .inr (.inl (by rw [← hp, hk]))
    · obtain hport | hk := heff.getIndex_owner hne
      · exact .inl (by rw [← hp, hport])
      · exact .inr (.inl (by rw [← hp, hk]))
  | internal hcore hint =>
    rw [← hcore.fifo f, ← hcore.control.fsm]
    obtain ⟨hput, hget⟩ | hmoves := internalStep_indices hint f
    · exact ⟨fun hne => absurd hput hne, fun hne => absurd hget hne⟩
    · exact ⟨fun _ => .inr (.inr hmoves), fun _ => .inr (.inr hmoves)⟩

/-! ## Parameters, events and the link -/

/-- R26, R30, R37: the parameters stay, events are only appended, and the link changes only where `control` holds. -/
structure State.Continues (control : Prop) (s t : State) : Prop where
  params : t.params = s.params
  events : ∃ new, t.events = s.events ++ new
  link : t.link ≠ s.link → control

theorem State.SameControl.continues {s t : State} (h : s.SameControl t) (control : Prop) : s.Continues control t :=
  ⟨h.params, ⟨[], by rw [h.events, List.append_nil]⟩, fun hne => absurd h.link hne⟩

theorem State.ExecEffect.continues {s t : State} {i : Instr} (h : s.ExecEffect i t) :
    s.Continues (s.active = .k) t := by
  cases h with
  | answer => exact (s.sameControl_respond _).continues _
  | fifo | initFailed | initDone =>
    exact ((s.sameControl_setFifo _ _).trans (State.sameControl_respond _ _)).continues _
  | linkUp hk => exact ⟨by simp, ⟨[], by simp⟩, fun _ => hk⟩
  | linkDown hk => exact ⟨by simp, ⟨[.activityClear], by simp⟩, fun _ => hk⟩
  | reconfigure hk => exact ⟨by simp [enterReconfiguration], ⟨[], by simp [enterReconfiguration]⟩, fun _ => hk⟩
  | draw hk => exact ⟨by simp, ⟨[], by simp⟩, fun _ => hk⟩

/-- R154 to R161: a sequencer step emits at most one event and leaves the link alone. -/
theorem fsmStep_continues {s t : State} (h : fsmStep s = some t) : s.Continues False t := by
  obtain ⟨-, rfl⟩ | ⟨-, -, rfl⟩ | ⟨-, rfl⟩ | ⟨-, rfl⟩ | ⟨-, rfl⟩ | ⟨-, rfl⟩ | ⟨-, rfl⟩ := fsmStep_cases h
  case inl => exact ⟨rfl, ⟨[.uartDeinit], rfl⟩, fun hne => hne rfl⟩
  case inr.inr.inr.inr.inr.inl => exact ⟨rfl, ⟨[.uartConfigure s.lineConfig], rfl⟩, fun hne => hne rfl⟩
  all_goals exact ⟨rfl, ⟨[], (List.append_nil _).symm⟩, fun hne => hne rfl⟩

theorem internalStep_continues {m : Move} {s t : State} (h : internalStep m s = some t) (hm : m ≠ .hardReset) :
    s.Continues False t := by
  obtain ⟨g, ps, gs, pm, gm, rfl⟩ | ⟨-, hfsm⟩ | ⟨hreset, -⟩ := internalStep_cases h
  · exact (s.sameControl_setFifo g _).continues _
  · exact fsmStep_continues hfsm
  · exact absurd hreset hm

/-- R37: no internal step, the hardware reset included, changes a parameter. -/
theorem internalStep_params {m : Move} {s t : State} (h : internalStep m s = some t) : t.params = s.params := by
  by_cases hm : m = .hardReset
  · subst hm
    cases h
    rfl
  · exact (internalStep_continues h hm).params

theorem State.Continues.of_core {s u t : State} {p q : Prop} (h : u.Continues p t) (hc : s.SameControl u)
    (hpq : p → q) : s.Continues q t where
  params := h.params.trans hc.params
  events := hc.events ▸ h.events
  link := fun hne => hpq (h.link (hc.link ▸ hne))

/-- Settles O57. -/
theorem eventsGrowAndLinkIsControls : Obligations.EventsGrowAndLinkIsControls := by
  intro s t h
  suffices hall : t.params = s.params ∧
      (s.takeTurn.1 ≠ .hardReset → s.Continues (s.takeTurn.1 = .port .k) t) from
    ⟨hall.1, fun hm => ⟨(hall.2 hm).events, (hall.2 hm).link⟩⟩
  cases step_effect h with
  | idle hcore => exact ⟨hcore.control.params, fun _ => hcore.control.continues _⟩
  | command hturn hcore hp heff =>
    have hcont := heff.continues.of_core hcore.control fun hk => hturn.trans (by rw [← hp, hk])
    exact ⟨hcont.params, fun _ => hcont⟩
  | internal hcore hint =>
    exact ⟨(internalStep_params hint).trans hcore.control.params,
      fun hm => (internalStep_continues hint hm).of_core hcore.control False.elim⟩

end Sys2Proof.Machine
end

section
/-! Storage accesses (spec/20_memory.md R40, R41): how a run of masked addresses goes round the ring, what is read back
after a write of several bytes, and that a read at an address that exists fails only at an unwritten byte
(spec/70_reset_and_hazards.md R228). -/

namespace Sys2Proof.Machine

open Sys2Proof

/-! ## Addresses -/

/-- R41: the address of the k-th slot from an index on. -/
theorem Fifo.Shape.addr_add {x : Fifo} {d : Nat} (h : x.Shape d) (hv : x.valid = true) (i : Index) (k : Nat) :
    x.addr (i + BitVec.ofNat 16 k) = (i.toNat + k) % x.capacity.toNat := by
  obtain ⟨j, hj, hc, -⟩ := h.capacity_pow hv
  rw [h.addr_mod hv, hc, BitVec.toNat_add, Nat.mod_mod_of_dvd _ (Nat.pow_dvd_pow 2 hj), BitVec.toNat_ofNat,
    Nat.add_mod, Nat.mod_mod_of_dvd _ (Nat.pow_dvd_pow 2 hj), ← Nat.add_mod]

/-- R13: an index of the ring is its own address. -/
theorem Fifo.Shape.addr_of_le {x : Fifo} {d : Nat} (h : x.Shape d) (hv : x.valid = true) {i : Index}
    (hi : i.toNat ≤ x.mask.toNat) : x.addr i = i.toNat := by
  have hmask := h.maskIs hv
  rw [h.addr_mod hv]
  exact Nat.mod_eq_of_lt (by omega)

/-- R41: the slots of a run shorter than the ring are different ones. -/
theorem Fifo.Shape.addr_add_ne {x : Fifo} {d : Nat} (h : x.Shape d) (hv : x.valid = true) (i : Index) {k : Nat}
    (hpos : 0 < k) (hk : k < x.capacity.toNat) : x.addr (i + BitVec.ofNat 16 k) ≠ x.addr i := by
  intro heq
  rw [h.addr_add hv, h.addr_mod hv] at heq
  have hdvd := Nat.sub_mod_eq_zero_of_mod_eq heq
  rw [Nat.add_sub_cancel_left, Nat.mod_eq_of_lt hk] at hdvd
  omega

/-- R114, R115: an address a window covers. -/
theorem Lease.covers_iff (l : Lease) (addr : Index) :
    l.covers addr = true ↔ l.ptr.toNat ≤ addr.toNat ∧ addr.toNat < l.ptr.toNat + l.run.toNat := by
  simp [Lease.covers]

/-- R20, R40: what the read window covers exists. -/
theorem Fifo.Windows.read_lt {x : Fifo} {d : Nat} (hw : x.Windows) (h : x.Shape d) {l : Lease} {addr : Index}
    (hl : x.rdLease = some l) (hcov : l.covers addr = true) : addr.toNat < d := by
  obtain ⟨-, -, -, hend⟩ := hw.read l hl
  have hfits := h.capacityFits
  have hin := (l.covers_iff addr).1 hcov
  omega

/-- R20, R40: what the write window covers exists. -/
theorem Fifo.Windows.write_lt {x : Fifo} {d : Nat} (hw : x.Windows) (h : x.Shape d) {l : Lease} {addr : Index}
    (hl : x.wrLease = some l) (hcov : l.covers addr = true) : addr.toNat < d := by
  obtain ⟨-, -, -, hend⟩ := hw.write l hl
  have hfits := h.capacityFits
  have hin := (l.covers_iff addr).1 hcov
  omega

/-! ## Reading back what was written -/

/-- R7 `MemWrite`: over slots that are different ones every byte is read back. -/
theorem State.memWrite_read {f : FifoId} {bytes : List Byte} :
    ∀ {s t : State} {i : Index},
      (∀ j k, 0 < k → k < bytes.length → (s.fifo f).addr (j + BitVec.ofNat 16 k) ≠ (s.fifo f).addr j) →
      s.memWrite f i bytes = .ok t → ∀ k < bytes.length,
        Memory.read (t.fifo f).storage ((s.fifo f).addr (i + BitVec.ofNat 16 k)) = bytes[k]? := by
  induction bytes with
  | nil => intro s t i _ _ k hk; cases hk
  | cons b rest ih =>
    intro s t i hne h k hk
    unfold State.memWrite at h
    split at h
    case h_1 => cases h
    case h_2 u hu =>
      obtain ⟨-, rfl⟩ := (State.store_ok_iff s u f _ b).1 hu
      have haddr (j : Index) : ((s.setFifo f { s.fifo f with
          storage := Memory.write (s.fifo f).storage ((s.fifo f).addr i) b }).fifo f).addr j = (s.fifo f).addr j := by
        rw [State.fifo_setFifo_same]; rfl
      cases k with
      | zero =>
        obtain ⟨m, rfl, -, hkept, -⟩ := State.memWrite_frame h
        rw [State.fifo_setFifo_same, index_add_zero, hkept _ fun k hk => ?_]
        · simp
        · rw [haddr, index_succ_add]
          exact (hne i (k + 1) (by omega) (by simpa using hk)).symm
      | succ k =>
        rw [← index_succ_add, ← haddr, List.getElem?_cons_succ]
        refine ih (fun j k hpos hk => ?_) h k (by simpa using hk)
        rw [haddr, haddr]
        exact hne j k hpos (by simp; omega)

/-- R41, R100: fewer bytes than the ring has slots are all stored, and read back round the ring. -/
theorem Fifo.Shape.memWrite_ok {s : State} {f : FifoId} (h : (s.fifo f).Shape (s.depth f))
    (hv : (s.fifo f).valid = true) (i : Index) {bytes : List Byte} (hlen : bytes.length < (s.fifo f).capacity.toNat) :
    ∃ m, s.memWrite f i bytes = .ok (s.setFifo f { s.fifo f with storage := m }) ∧
      ∀ k < bytes.length, Memory.read m ((i.toNat + k) % (s.fifo f).capacity.toNat) = bytes[k]? := by
  obtain ⟨t, ht⟩ := State.memWrite_total (bytes := bytes) (i := i) (h.addr_lt hv)
  have hread := State.memWrite_read (fun j k hpos hk => h.addr_add_ne hv j hpos (hk.trans hlen)) ht
  obtain ⟨m, rfl, -⟩ := State.memWrite_frame ht
  refine ⟨m, ht, fun k hk => ?_⟩
  rw [← h.addr_add hv, ← hread k hk, State.fifo_setFifo_same]

/-! ## Reads that fail -/

section Reads

variable {s : State} {f : FifoId} {e : Fault}

theorem State.load_error {a : Nat} (ha : a < s.depth f) (he : s.load f a = .error e) : e = .unwrittenByte := by
  cases hr : Memory.read (s.fifo f).storage a with
  | none =>
    rw [State.load_unwritten s f a ha hr] at he
    exact (Except.error.inj he).symm
  | some b =>
    rw [(State.load_ok_iff s f a b).2 ⟨ha, hr⟩] at he
    cases he

variable (hd : ∀ j, (s.fifo f).addr j < s.depth f)
include hd

theorem State.memRead_error {n : Nat} {i : Index} (he : s.memRead f i n = .error e) : e = .unwrittenByte := by
  induction n generalizing i with
  | zero => cases he
  | succ n ih =>
    unfold State.memRead at he
    split at he
    case h_1 hload => cases he; exact State.load_error (hd i) hload
    case h_2 =>
      split at he
      case h_1 hrest => cases he; exact ih hrest
      case h_2 => cases he

theorem State.matchAt_error {pattern : List Byte} {i : Index} (he : s.matchAt f i pattern = .error e) :
    e = .unwrittenByte := by
  induction pattern generalizing i with
  | nil => cases he
  | cons b rest ih =>
    unfold State.matchAt at he
    split at he
    case h_1 hload => cases he; exact State.load_error (hd i) hload
    case h_2 =>
      split at he
      case isTrue => exact ih he
      case isFalse => cases he

theorem State.findFrom_error {pattern : List Byte} {k tries : Nat} (he : s.findFrom f pattern k tries = .error e) :
    e = .unwrittenByte := by
  induction tries generalizing k with
  | zero => cases he
  | succ tries ih =>
    unfold State.findFrom at he
    split at he
    case h_1 hmatch => cases he; exact State.matchAt_error hd hmatch
    case h_2 => cases he
    case h_3 => exact ih he

/-- R228: a read of several bytes fails where one of them is unwritten. -/
theorem State.memRead_unwritten {n k : Nat} {i : Index} (hk : k < n)
    (hr : Memory.read (s.fifo f).storage ((s.fifo f).addr (i + BitVec.ofNat 16 k)) = none) :
    s.memRead f i n = .error .unwrittenByte := by
  cases h : s.memRead f i n with
  | error e => rw [State.memRead_error hd h]
  | ok bytes =>
    obtain ⟨hlen, hbytes⟩ := State.memRead_ok h
    have hnone := (hbytes k hk).trans hr
    rw [List.getElem?_eq_none_iff] at hnone
    omega

/-- R228: a search fails whose first candidate begins at an unwritten byte (log entry 6). -/
theorem State.findFrom_unwritten {pattern : List Byte} {k tries : Nat} (hne : pattern ≠ []) (ht : tries ≠ 0)
    (hr : Memory.read (s.fifo f).storage ((s.fifo f).addr ((s.fifo f).getIndex + BitVec.ofNat 16 k)) = none) :
    s.findFrom f pattern k tries = .error .unwrittenByte := by
  obtain ⟨b, rest, rfl⟩ := List.exists_cons_of_ne_nil hne
  obtain ⟨tries, rfl⟩ := Nat.exists_eq_succ_of_ne_zero ht
  simp [State.findFrom, State.matchAt, State.load_unwritten s f _ (hd _) hr]

end Reads

end Sys2Proof.Machine
end

section
/-! The commands that store and read bytes, admitted and with nothing in their way: PUT, GET, BULK_WRITE, BULK_READ,
PEEK_AT, FIND, LDB, STB (spec/41_byte_and_query.md R90, R91; spec/42_bulk.md R100, R101; spec/43_zero_copy.md R114, R115;
spec/44_scan.md R130, R131), each as the storage access it goes on to or as its exact next state. -/

namespace Sys2Proof.Machine

open Sys2Proof

theorem State.answered_setFifo_respond (s : State) (f : FifoId) (x : Fifo) (r : Response) :
    s.Answered ((s.setFifo f x).respond r) r :=
  State.respond_response_of _ r (s.setFifo_active f x)

/-- R62: an index as a response value. -/
theorem countVal_toNat (n : Index) : countVal n.toNat = n.setWidth 24 := by simp [countVal]

/-- R91, R101: the FIFO once `n` bytes are taken; taking none leaves an open read window open. -/
def Fifo.taken (x : Fifo) (eager : Bool) (n : Index) : Fifo :=
  Fifo.retired { x with rdLease := if n = 0#16 then x.rdLease else none } eager n

/-- R90, R100: the FIFO once the bytes written into `m` are published; storing none leaves an open write window open. -/
def Fifo.stored (x : Fifo) (eager : Bool) (m : Memory) (bytes : List Byte) : Fifo :=
  Fifo.published { x with storage := m, wrLease := if bytes = [] then x.wrLease else none } eager
    (BitVec.ofNat 16 bytes.length)

@[simp] theorem Fifo.stored_valid (x : Fifo) (eager : Bool) (m : Memory) (bytes : List Byte) :
    (x.stored eager m bytes).valid = x.valid := rfl
@[simp] theorem Fifo.stored_putMail (x : Fifo) (eager : Bool) (m : Memory) (bytes : List Byte) :
    (x.stored eager m bytes).putMail = x.putMail := rfl
@[simp] theorem Fifo.stored_putIndex (x : Fifo) (eager : Bool) (m : Memory) (bytes : List Byte) :
    (x.stored eager m bytes).putIndex = x.advance x.putIndex (BitVec.ofNat 16 bytes.length) := rfl
/-- R144: without `SYNC_EAGER` the consumer's copy stays. -/
@[simp] theorem Fifo.stored_putSeen (x : Fifo) (m : Memory) (bytes : List Byte) :
    (x.stored false m bytes).putSeen = x.putSeen := rfl

/-- R130: the response to the offset a search found, or to none. -/
def State.answerFound (s : State) : Option Nat → Result
  | some k => s.done (countVal k)
  | none => s.raise .notFound

section Commands

variable {s : State} {f : FifoId}

/-! ## Reads at the consumer port -/

theorem exec_get_admitted (hadm : s.Admitted f .consumer .move) (hne : (s.fifo f).occC ≠ 0#16) :
    exec .get s = orFault (s.load f ((s.fifo f).addr (s.fifo f).getIndex)) fun b =>
      .next ((s.setFifo f ((s.fifo f).taken s.params.syncEager 1#16)).respond (okWith (b.setWidth 24))) := by
  rw [exec, execGet, State.atSide_admitted hadm, if_neg hne, State.moveGet_eq, State.setRdLease_setFifo]
  rfl

theorem exec_bulkRead_admitted {len : Index} (hadm : s.Admitted f .consumer .move)
    (hlen : len.toNat ≤ (s.fifo f).occC.toNat) :
    exec (.bulkRead len) s = orFault (s.memRead f (s.fifo f).getIndex len.toNat) fun bytes =>
      .next ((s.setFifo f ((s.fifo f).taken s.params.syncEager len)).respond
        { status := .ok, val := len.setWidth 24, rsp1 := none, payload := bytes }) := by
  rw [exec, execBulkRead, State.atSide_admitted hadm, if_neg (Nat.not_lt.2 hlen)]
  simp only [State.moveGet_eq, State.setRdLease_setFifo, countVal_toNat, Fifo.taken]
  by_cases hzero : len = 0#16 <;> simp only [hzero, if_true, if_false] <;> rfl

theorem exec_peekAt_admitted {index : Index} (hadm : s.Admitted f .consumer .move)
    (hlt : index.toNat < (s.fifo f).occC.toNat) :
    exec (.peekAt index) s = orFault (s.load f ((s.fifo f).addr ((s.fifo f).getIndex + index))) fun b =>
      .next (s.respond (okWith (b.setWidth 24))) := by
  rw [exec, execPeekAt, State.atSide_admitted hadm, if_neg (Nat.not_le.2 hlt)]
  rfl

theorem exec_find_admitted {pattern : List Byte} (hadm : s.Admitted f .consumer .move) (hne : pattern ≠ [])
    (hlen : pattern.length ≤ (s.fifo f).occC.toNat) :
    exec (.find pattern) s =
      orFault (s.findFrom f pattern 0 ((s.fifo f).occC.toNat - pattern.length + 1)) s.answerFound := by
  rw [exec, execFind, if_neg (by simpa using hne), State.atSide_admitted hadm]
  simp only [if_neg (Nat.not_lt.2 hlen)]
  refine congrArg (orFault _) (funext fun found => ?_)
  cases found <;> rfl

theorem exec_ldb_admitted {addr : Index} {l : Lease} (hadm : s.Admitted f .consumer .complete)
    (hl : (s.fifo f).rdLease = some l) (hcov : l.covers addr = true) :
    exec (.ldb addr) s = orFault (s.load f addr.toNat) fun b => .next (s.respond (okWith (b.setWidth 24))) := by
  rw [exec, execLdb, State.atSide_admitted hadm]
  simp only [hl, hcov, if_true]
  rfl

/-- R101: BULK_READ of visible bytes that are all written. -/
theorem exec_bulkRead_written {len : Index} (hadm : s.Admitted f .consumer .move)
    (h : (s.fifo f).Shape (s.depth f)) (hlen : len.toNat ≤ (s.fifo f).occC.toNat)
    (hwritten : ∀ k < len.toNat, s.content f k ≠ none) :
    ∃ bytes, bytes.length = len.toNat ∧ (∀ k < len.toNat, bytes[k]? = s.content f k) ∧
      exec (.bulkRead len) s = .next ((s.setFifo f ((s.fifo f).taken s.params.syncEager len)).respond
        { status := .ok, val := len.setWidth 24, rsp1 := none, payload := bytes }) := by
  obtain ⟨bytes, hbytes⟩ := State.memRead_total (h.addr_lt hadm.valid) hwritten
  obtain ⟨hcount, hcontent⟩ := State.memRead_ok hbytes
  exact ⟨bytes, hcount, hcontent, by rw [exec_bulkRead_admitted hadm hlen, hbytes]; rfl⟩

/-! ## Writes at the producer port -/

theorem exec_bulkWrite_admitted {payload : List Byte} {m : Memory} (hadm : s.Admitted f .producer .move)
    (hfree : payload.length ≤ (s.fifo f).freeP)
    (hm : s.memWrite f (s.fifo f).putIndex payload = .ok (s.setFifo f { s.fifo f with storage := m })) :
    exec (.bulkWrite payload) s =
      .next ((s.setFifo f ((s.fifo f).stored s.params.syncEager m payload)).respond (okWith 0#24)) := by
  rw [exec, execBulkWrite, State.atSide_admitted hadm, if_neg (Nat.not_lt.2 hfree), hm]
  simp only [orFault, State.movePut_setFifo, State.setWrLease_setFifo, State.done_eq_okWith]
  cases payload <;> rfl

theorem exec_put_admitted {b : Byte} {m : Memory} (hadm : s.Admitted f .producer .move)
    (hfull : (s.fifo f).occP.toNat ≠ (s.fifo f).capacity.toNat - 1)
    (hm : s.memWrite f (s.fifo f).putIndex [b] = .ok (s.setFifo f { s.fifo f with storage := m })) :
    exec (.put b) s =
      .next ((s.setFifo f ((s.fifo f).stored s.params.syncEager m [b])).respond (okWith 0#24)) := by
  rw [exec, execPut, State.atSide_admitted hadm, if_neg hfull, hm]
  simp only [orFault, State.movePut_setFifo, State.setWrLease_setFifo, State.done_eq_okWith]
  rfl

theorem exec_stb_admitted {addr : Index} {b : Byte} {l : Lease} (hadm : s.Admitted f .producer .complete)
    (hl : (s.fifo f).wrLease = some l) (hcov : l.covers addr = true) (hd : addr.toNat < s.depth f) :
    exec (.stb addr b) s =
      .next ((s.setFifo f { s.fifo f with storage := Memory.write (s.fifo f).storage addr.toNat b }).respond
        (okWith 0#24)) := by
  rw [exec, execStb, State.atSide_admitted hadm]
  simp only [hl, hcov, if_true, (State.store_ok_iff s _ f _ b).2 ⟨hd, rfl⟩]
  rfl

/-! ## What is free bounds what is stored -/

theorem Fifo.Shape.lt_capacity_of_le_freeP {x : Fifo} {d n : Nat} (h : x.Shape d) (hv : x.valid = true)
    (hn : n ≤ x.freeP) : n < x.capacity.toNat := by
  have hcap := h.capacity_bounds hv
  unfold Fifo.freeP at hn
  omega

/-- R71: `put_index` once bytes are stored. -/
theorem Fifo.Shape.stored_putIndex_mod {x : Fifo} {d : Nat} (h : x.Shape d) (hv : x.valid = true) (eager : Bool)
    (m : Memory) {bytes : List Byte} (hlen : bytes.length < x.capacity.toNat) :
    (x.stored eager m bytes).putIndex.toNat = (x.putIndex.toNat + bytes.length) % x.capacity.toNat := by
  have hcap := h.capacity_bounds hv
  have hbytes : (BitVec.ofNat 16 bytes.length).toNat = bytes.length := Nat.mod_eq_of_lt (by omega)
  rw [Fifo.stored_putIndex, h.advance_mod hv, hbytes]

end Commands

/-! ## The obligations -/

/-- Settles O12: each command goes on to the storage access that meets the unwritten byte. -/
theorem unwrittenByteIsFault : Obligations.UnwrittenByteIsFault := by
  refine fun s f h => ⟨fun hadm => ?move, fun hadm l addr hw hl hlo hhi hr => ?ldb⟩
  case move =>
    have hd := h.addr_lt hadm.valid
    refine ⟨fun hne hr => ?get, fun len hlen ⟨k, hk, hr⟩ => ?bulkRead, fun index hlt hr => ?peekAt,
      fun pattern hne hlen hr => ?find⟩
    case get =>
      rw [State.content, index_add_zero] at hr
      rw [exec_get_admitted hadm hne, State.load_unwritten s f _ (hd _) hr]
      rfl
    case bulkRead =>
      rw [exec_bulkRead_admitted hadm hlen, State.memRead_unwritten hd hk hr]
      rfl
    case peekAt =>
      rw [State.content, BitVec.ofNat_toNat, BitVec.setWidth_eq] at hr
      rw [exec_peekAt_admitted hadm hlt, State.load_unwritten s f _ (hd _) hr]
      rfl
    case find =>
      rw [exec_find_admitted hadm hne hlen, State.findFrom_unwritten hd hne (Nat.succ_ne_zero _) hr]
      rfl
  case ldb =>
    have hcov := (l.covers_iff addr).2 ⟨hlo, hhi⟩
    rw [exec_ldb_admitted hadm hl hcov, State.load_unwritten s f _ (hw.read_lt h hl hcov) hr]
    rfl

/-- Settles O15. -/
theorem putStoresAndAdvances : Obligations.PutStoresAndAdvances := by
  intro s f b hadm h hfull
  have hv := hadm.valid
  have hlt : [b].length < (s.fifo f).capacity.toNat := h.lt_capacity_of_le_freeP hv (h.one_le_freeP hv hfull)
  obtain ⟨m, hm, hread⟩ := h.memWrite_ok hv (s.fifo f).putIndex hlt
  refine ⟨_, exec_put_admitted hadm hfull hm, s.answered_setFifo_respond f _ _, ?_⟩
  rw [State.fifo_respond, State.fifo_setFifo_same]
  refine ⟨?byte, h.stored_putIndex_mod hv _ m hlt, rfl, rfl⟩
  have hfirst := hread 0 (by simp)
  rwa [Nat.add_zero, ← h.addr_mod hv, h.addr_of_le hv h.indices.1] at hfirst

/-- Settles O18. -/
theorem bulkWriteStoresAll : Obligations.BulkWriteStoresAll := by
  intro s f payload hadm h hfree
  have hv := hadm.valid
  have hlt := h.lt_capacity_of_le_freeP hv hfree
  obtain ⟨m, hm, hread⟩ := h.memWrite_ok hv (s.fifo f).putIndex hlt
  refine ⟨_, exec_bulkWrite_admitted hadm hfree hm, s.answered_setFifo_respond f _ _, ?_⟩
  rw [State.fifo_respond, State.fifo_setFifo_same]
  exact ⟨hread, h.stored_putIndex_mod hv _ m hlt, rfl, rfl⟩

/-- Settles O16. -/
theorem getReturnsOldestByte : Obligations.GetReturnsOldestByte := by
  intro s f b hadm h hne hb
  have hv := hadm.valid
  rw [State.content, index_add_zero] at hb
  refine ⟨_, by rw [exec_get_admitted hadm hne, (State.load_ok_iff s f _ b).2 ⟨h.addr_lt hv _, hb⟩]; rfl,
    s.answered_setFifo_respond f _ _, ?_⟩
  rw [State.fifo_respond, State.fifo_setFifo_same]
  exact ⟨h.advance_mod hv _ _, rfl, rfl⟩

/-- Settles O19. -/
theorem bulkReadReturnsAll : Obligations.BulkReadReturnsAll := by
  intro s f len hadm h hlen hwritten
  obtain ⟨bytes, hcount, hcontent, hexec⟩ := exec_bulkRead_written hadm h hlen hwritten
  refine ⟨_, bytes, hexec, s.answered_setFifo_respond f _ _, hcount, hcontent, ?_⟩
  rw [State.fifo_respond, State.fifo_setFifo_same]
  exact ⟨h.advance_mod hadm.valid _ _, rfl, rfl⟩

/-- Settles O24. -/
theorem ldbReadsWindow : Obligations.LdbReadsWindow := by
  intro s f addr l b hadm h hw hl hlo hhi hb
  have hcov := (l.covers_iff addr).2 ⟨hlo, hhi⟩
  rw [exec_ldb_admitted hadm hl hcov, (State.load_ok_iff s f _ b).2 ⟨hw.read_lt h hl hcov, hb⟩]
  rfl

/-- Settles O25. -/
theorem stbWritesWindow : Obligations.StbWritesWindow := by
  intro s f addr b l hadm h hw hl hlo hhi
  have hcov := (l.covers_iff addr).2 ⟨hlo, hhi⟩
  refine ⟨_, exec_stb_admitted hadm hl hcov (hw.write_lt h hl hcov), s.answered_setFifo_respond f _ _, ?_⟩
  rw [State.fifo_respond, State.fifo_setFifo_same]
  exact ⟨Memory.read_write_same _ _ b, hl, rfl, rfl⟩

/-- Settles O27. -/
theorem peekAtReadsOffset : Obligations.PeekAtReadsOffset := by
  intro s f index b hadm h hlt hb
  rw [State.content, BitVec.ofNat_toNat, BitVec.setWidth_eq] at hb
  rw [exec_peekAt_admitted hadm hlt, (State.load_ok_iff s f _ b).2 ⟨h.addr_lt hadm.valid _, hb⟩]
  rfl

end Sys2Proof.Machine
end

section
/-! Frames of the commands that read (spec/41_byte_and_query.md R92, R93; spec/43_zero_copy.md R114; spec/44_scan.md
R130, R131; spec/46_control.md R152) and of INIT (spec/40_lifecycle.md R80), from the effect of a command. -/

namespace Sys2Proof

/-- R46, R92, R93, R114, R130, R131, R152: the commands that read and change nothing but a response. -/
def Instr.ReadsOnly (i : Instr) : Prop :=
  i = .elems ∨ i = .free ∨ (∃ p, i = .find p) ∨ (∃ n, i = .peekAt n) ∨ (∃ a, i = .ldb a) ∨ ∃ f n, i = .rdreg f n

/-- A reading command stores nothing, takes nothing, and works on a window only as LDB. -/
theorem Instr.ReadsOnly.effects {i : Instr} (h : i.ReadsOnly) :
    i.storedBytes = none ∧ i.takenCount = none ∧ ∀ side, i.windowSide = some side → ∃ a, i = .ldb a := by
  obtain rfl | rfl | ⟨p, rfl⟩ | ⟨n, rfl⟩ | ⟨a, rfl⟩ | ⟨f, n, rfl⟩ := h
  case inr.inr.inr.inr.inl => exact ⟨rfl, rfl, fun _ _ => ⟨a, rfl⟩⟩
  all_goals exact ⟨rfl, rfl, nofun⟩

end Sys2Proof

namespace Sys2Proof.Machine

open Sys2Proof

/-! ## Outside the FIFOs -/

theorem State.sameTurns_respond (s : State) (r : Response) : s.SameTurns (s.respond r) := by constructor <;> simp

/-- A change before the response that leaves the ports alone leaves `State.SamePorts` as it is. -/
theorem State.SamePorts.of_core {s u t : State} (h : u.SamePorts t) (hports : ∀ p, u.port p = s.port p)
    (ha : u.active = s.active) : s.SamePorts t where
  others := fun p hp => (h.others p (ha ▸ hp)).trans (hports p)
  words := by rw [← ha, h.words, hports]
  bytes := by rw [← ha, h.bytes, hports]

theorem State.samePorts_setFifo_respond (s : State) (f : FifoId) (x : Fifo) (r : Response) :
    s.SamePorts ((s.setFifo f x).respond r) :=
  ((s.setFifo f x).samePorts_respond r).of_core (s.port_setFifo f x) (s.setFifo_active f x)

/-- R221: but for the model's count of free values. -/
theorem State.SameControl.withDraws {s t : State} (h : s.SameControl t) :
    State.SameControl { s with draws := t.draws } t := { h with draws := rfl }

/-! ## Reads -/

/-- R114: of the reading commands only an LDB in breach touches a FIFO, and only its fault bit. -/
theorem State.FifoStep.breach_of_readsOnly {s : State} {f : FifoId} {side : Side} {i : Instr} {r : Response} {x : Fifo}
    (h : s.FifoStep f side i r x) (hi : i.ReadsOnly) :
    (∃ a, i = .ldb a) ∧ r = errorAnswer i .contract ∧ x = { s.fifo f with fault := true } := by
  obtain ⟨hstored, htaken, hwindow⟩ := hi.effects
  cases h with
  | breach _ hside => exact ⟨hwindow side hside, rfl, rfl⟩
  | store _ hbytes => simp [hstored] at hbytes
  | take _ hcount => simp [htaken] at hcount
  | openRead | openWrite | retire | publish | storeByte => simp [Instr.ReadsOnly] at hi

/-- Settles O36, by the effects a reading command can have. -/
theorem frameReads : Obligations.FrameReads := by
  intro i hi s t h
  replace hi : i.ReadsOnly := hi
  cases exec_effect h with
  | answer =>
    exact ⟨(s.sameControl_respond _).withDraws, fun _ => s.respond_draws _, s.sameTurns_respond _,
      s.samePorts_respond _, fun f => .inl (s.fifo_respond _ f)⟩
  | @fifo _ g side r x hstep =>
    obtain ⟨hldb, hr, hx⟩ := hstep.breach_of_readsOnly hi
    have hframe := State.frameOutsideFifo_setFifo_respond hstep.portRole_eq x r
    refine ⟨hframe.control.withDraws, fun _ => hframe.control.draws, hframe.turns, hframe.ports, fun f => ?_⟩
    rw [State.fifo_respond]
    by_cases hf : f = g
    · subst hf
      exact .inr ⟨hldb, hr ▸ s.answered_setFifo_respond f x r, hx ▸ s.fifo_setFifo_same f x⟩
    · exact .inl (s.fifo_setFifo_ne x hf)
  | draw =>
    exact ⟨(State.sameControl_respond { s with draws := s.draws + 1 } _).withDraws, fun hne => absurd rfl (hne _ _),
      by constructor <;> simp, (State.samePorts_respond { s with draws := s.draws + 1 } _).of_core
        (fun p => by cases p <;> rfl) rfl, fun f => .inl (by rw [State.fifo_respond]; cases f <;> rfl)⟩
  | initFailed | initDone | linkUp | linkDown | reconfigure => simp [Instr.ReadsOnly] at hi

/-! ## INIT -/

theorem otherFifo_ne (f : FifoId) : otherFifo f ≠ f := by cases f <;> decide

/-- R40, R80: a FIFO changed but for its fault bit and its storage, and a response. -/
theorem frame_of_setFifo_respond {s t : State} {f : FifoId} {x : Fifo} {r : Response}
    (ht : t = (s.setFifo f x).respond r) (hfault : x.fault = (s.fifo f).fault)
    (hstorage : x.storage = (s.fifo f).storage) :
    s.SameControl t ∧ s.SameTurns t ∧ s.SamePorts t ∧ t.fifo (otherFifo f) = s.fifo (otherFifo f) ∧
      (t.fifo f).fault = (s.fifo f).fault ∧
      ∀ a, Memory.read (t.fifo f).storage a = Memory.read (s.fifo f).storage a := by
  subst ht
  refine ⟨(s.sameControl_setFifo f x).trans (State.sameControl_respond _ r), by constructor <;> simp,
    s.samePorts_setFifo_respond f x r, ?_⟩
  rw [State.fifo_respond, State.fifo_respond, s.fifo_setFifo_ne x (otherFifo_ne f), State.fifo_setFifo_same, hstorage]
  exact ⟨rfl, hfault, fun _ => rfl⟩

/-- Settles O37, by the effects of INIT. -/
theorem frameInit : Obligations.FrameInit := by
  intro f c s t h
  cases exec_effect h with
  | answer => exact frame_of_setFifo_respond (x := s.fifo f) (by rw [State.setFifo_self]) rfl rfl
  | fifo hstep => simpa [Instr.onProducerPort, Instr.onConsumerPort] using hstep.accepted
  | initFailed => exact frame_of_setFifo_respond rfl rfl rfl
  | initDone => exact frame_of_setFifo_respond rfl rfl rfl

end Sys2Proof.Machine
end

section
/-! BULK_WRITE, the crossing of `put_index`, BULK_READ (spec/42_bulk.md R102; spec/45_cdc_sync.md R140, R141): bytes
written into an empty FIFO come out as they went in, wherever the indices stand. -/

namespace Sys2Proof.Machine

open Sys2Proof

/-! ## A port's turn in a running machine -/

theorem State.sameCore_withActive (s : State) (p : PortId) : s.SameCore { s with active := p } :=
  ⟨by constructor <;> rfl, fun f => by cases f <;> rfl⟩

theorem portRole_producerPort (f : FifoId) : portRole (producerPort f) = some (f, .producer) := by cases f <;> rfl

theorem portRole_consumerPort (f : FifoId) : portRole (consumerPort f) = some (f, .consumer) := by cases f <;> rfl

/-- R212: a running machine admits a move at either port of a constructed FIFO. -/
theorem State.admitted_move {s : State} {f : FifoId} {side : Side} (hport : portRole s.active = some (f, side))
    (hv : (s.fifo f).valid = true) (hpaused : s.paused = false) (hup : s.uartUp = true) : s.Admitted f side .move :=
  ⟨hport, by simp [State.gate, hv, hpaused, hup]⟩

/-! ## The content of a FIFO -/

/-- R9, R17: the bytes are the whole content of a constructed FIFO, and the consumer sees them all. -/
structure State.Holds (s : State) (f : FifoId) (bytes : List Byte) : Prop where
  shape : (s.fifo f).Shape (s.depth f)
  valid : (s.fifo f).valid = true
  crossed : (s.fifo f).putSeen = (s.fifo f).putIndex
  count : (s.fifo f).occC.toNat = bytes.length
  content : ∀ k < bytes.length, s.content f k = bytes[k]?

theorem State.Holds.congr {s t : State} {f : FifoId} {bytes : List Byte} (h : s.Holds f bytes) (hc : s.SameCore t) :
    t.Holds f bytes := by
  obtain ⟨hshape, hv, hcrossed, hcount, hcontent⟩ := h
  rw [← hc.fifo f] at hshape hv hcrossed hcount
  refine ⟨?_, hv, hcrossed, hcount, fun k hk => ?_⟩
  · rwa [State.depth_eq_of_params hc.control.params]
  · rw [← hcontent k hk, State.content, State.content, hc.fifo f]

/-! ## Writing and crossing -/

/-- R140, R141: `put_index` crosses to the consumer in two steps, where it has moved and nothing is under way. -/
theorem launchPut_landPut {s : State} {f : FifoId} (hv : (s.fifo f).valid = true) (he : s.params.syncEager = false)
    (hm : (s.fifo f).putMail = none) (hne : (s.fifo f).putIndex ≠ (s.fifo f).putSeen) :
    ∃ t, launchPut f s = some t ∧
      landPut f t = some (s.setFifo f { s.fifo f with putSeen := (s.fifo f).putIndex, putMail := none }) :=
  ⟨_, launchPut_eq_some_iff.2 ⟨hv, he, hm, hne, rfl⟩,
    landPut_eq_some_iff.2 ⟨by simpa using hv, (s.fifo f).putIndex, by simp, by simp⟩⟩

/-- R17, R71: an index advanced by less than the ring stands that far from where it stood. -/
theorem Fifo.Shape.span_advance_self {x : Fifo} {d : Nat} {a n : Index} (h : x.Shape d) (hv : x.valid = true)
    (ha : a.toNat ≤ x.mask.toNat) (hn : n.toNat < x.capacity.toNat) : x.span (x.advance a n) a = n.toNat := by
  rw [h.span_advance_upper hv ha ha (by simpa using hn), Fifo.span_self, Nat.zero_add]

theorem Fifo.Shape.advance_ne_self {x : Fifo} {d : Nat} {a n : Index} (h : x.Shape d) (hv : x.valid = true)
    (ha : a.toNat ≤ x.mask.toNat) (hpos : 0 < n.toNat) (hn : n.toNat < x.capacity.toNat) : x.advance a n ≠ a := by
  intro heq
  have hspan := h.span_advance_self hv ha hn
  rw [heq, Fifo.span_self] at hspan
  omega

/-- R17: an empty FIFO whose copies have caught up has all its slots but one free. -/
theorem Fifo.Eager.freeP_of_empty {x : Fifo} (h : x.Eager) (hempty : x.putIndex = x.getIndex) :
    x.freeP = x.capacity.toNat - 1 := by
  obtain ⟨-, -, -, hseen⟩ := h
  simp [Fifo.freeP, Fifo.occP, hseen, hempty]

/-- R10 to R20: BULK_WRITE keeps the invariant of its FIFO. -/
theorem State.FifoInv.stored {s : State} {f : FifoId} {payload : List Byte} {m : Memory} (h : s.FifoInv f)
    (hadm : s.Admitted f .producer .move) (hfree : payload.length ≤ (s.fifo f).freeP)
    (hm : s.memWrite f (s.fifo f).putIndex payload = .ok (s.setFifo f { s.fifo f with storage := m })) :
    ((s.fifo f).stored s.params.syncEager m payload).Sound (s.depth f) s.params.syncEager := by
  refine (State.FifoStep.store (i := .bulkWrite payload) hadm rfl (fun _ _ => hfree) hm ?_).sound
    ((s.fifoInv_iff_sound f).1 h)
  by_cases hnil : payload = []
  · exact .inr ⟨hnil, if_pos hnil⟩
  · exact .inl (if_neg hnil)

/-- R100, R141: bytes stored in an empty FIFO are its content once `put_index` has crossed. -/
theorem State.holds_of_landed {s t : State} {f : FifoId} {m : Memory} {bytes : List Byte}
    (hsound : ((s.fifo f).stored false m bytes).Sound (s.depth f) false) (h : (s.fifo f).Shape (s.depth f))
    (hv : (s.fifo f).valid = true) (hempty : (s.fifo f).putIndex = (s.fifo f).getIndex)
    (hlt : bytes.length < (s.fifo f).capacity.toNat)
    (hread : ∀ k < bytes.length,
      Memory.read m (((s.fifo f).putIndex.toNat + k) % (s.fifo f).capacity.toNat) = bytes[k]?)
    (hparams : t.params = s.params)
    (ht : t.fifo f = { (s.fifo f).stored false m bytes with
      putSeen := ((s.fifo f).stored false m bytes).putIndex, putMail := none }) : t.Holds f bytes := by
  have hcap := h.capacity_bounds hv
  have hlen : (BitVec.ofNat 16 bytes.length).toNat = bytes.length := Nat.mod_eq_of_lt (by omega)
  refine ⟨?shape, ?valid, by rw [ht], ?count, fun k hk => ?content⟩
  case shape =>
    rw [ht, State.depth_eq_of_params hparams]
    exact ((hsound.launchPut hv).landPut hv rfl).shape
  case valid => rwa [ht]
  case count =>
    rw [ht]
    change (s.fifo f).span ((s.fifo f).advance (s.fifo f).putIndex _) (s.fifo f).getIndex = _
    rw [← hempty, h.span_advance_self hv h.indices.1 (hlen.trans_lt hlt), hlen]
  case content =>
    rw [State.content, ht]
    change Memory.read m ((s.fifo f).addr ((s.fifo f).getIndex + _)) = _
    rw [← hempty, h.addr_add hv, hread k hk]

/-- R100, R140, R141: BULK_WRITE into an empty FIFO, and the crossing of `put_index`. -/
theorem State.bulkWrite_crosses {s : State} {f : FifoId} {payload : List Byte}
    (hadm : s.Admitted f .producer .move) (hinv : s.FifoInv f) (heager : (s.fifo f).Eager)
    (hempty : (s.fifo f).putIndex = (s.fifo f).getIndex) (hsync : s.params.syncEager = false) (hne : payload ≠ [])
    (hlt : payload.length < (s.fifo f).capacity.toNat) :
    ∃ t₁ t₂ t₃, exec (.bulkWrite payload) s = .next t₁ ∧ launchPut f t₁ = some t₂ ∧ landPut f t₂ = some t₃ ∧
      s.SameControl t₃ ∧ t₃.Holds f payload := by
  have hv := hadm.valid
  have h := hinv.shape
  have hfree : payload.length ≤ (s.fifo f).freeP := by rw [heager.freeP_of_empty hempty]; omega
  obtain ⟨m, hm, hread⟩ := h.memWrite_ok hv (s.fifo f).putIndex hlt
  have hexec := exec_bulkWrite_admitted hadm hfree hm
  have hsound := hinv.stored hadm hfree hm
  rw [hsync] at hexec hsound
  have hlen : (BitVec.ofNat 16 payload.length).toNat = payload.length :=
    Nat.mod_eq_of_lt (hlt.trans_le (h.capacity_bounds hv).2)
  have hmoved : (s.fifo f).advance (s.fifo f).putIndex (BitVec.ofNat 16 payload.length) ≠ (s.fifo f).putIndex :=
    h.advance_ne_self hv h.indices.1 (by rw [hlen]; exact List.length_pos_of_ne_nil hne) (by rwa [hlen])
  obtain ⟨hnoMail, -, hputSeen, -⟩ := heager
  obtain ⟨t₂, hlaunch, hland⟩ := launchPut_landPut
    (s := (s.setFifo f ((s.fifo f).stored false m payload)).respond (okWith 0#24)) (f := f)
    (by simpa using hv) (by simpa using hsync) (by simpa using hnoMail) (by simpa [hputSeen] using hmoved)
  refine ⟨_, t₂, _, hexec, hlaunch, hland, ?_, ?_⟩
  · exact ((s.sameControl_setFifo f _).trans (State.sameControl_respond _ _)).trans (State.sameControl_setFifo _ f _)
  · exact State.holds_of_landed hsound h hv hempty hlt hread (by simp) (by simp)

/-! ## Reading -/

/-- R101, R102: BULK_READ of the whole content. -/
theorem State.Holds.bulkRead {s : State} {f : FifoId} {bytes : List Byte} (h : s.Holds f bytes)
    (hadm : s.Admitted f .consumer .move) :
    ∃ t, exec (.bulkRead (BitVec.ofNat 16 bytes.length)) s = .next t ∧
      s.Answered t { status := .ok, val := BitVec.ofNat 24 bytes.length, rsp1 := none, payload := bytes } ∧
      (t.fifo f).occTrue = 0#16 := by
  obtain ⟨hshape, hv, hcrossed, hcount, hcontent⟩ := h
  have hlt : bytes.length < 65536 := hcount ▸ (s.fifo f).occC.isLt
  have hlen : (BitVec.ofNat 16 bytes.length).toNat = bytes.length := Nat.mod_eq_of_lt hlt
  have hwritten : ∀ k < bytes.length, s.content f k ≠ none := fun k hk => by simp [hcontent k hk, hk]
  obtain ⟨out, hcountOut, hout, hexec⟩ := exec_bulkRead_written (len := BitVec.ofNat 16 bytes.length) hadm hshape
    (by rw [hlen, hcount]) (by rwa [hlen])
  rw [hlen] at hcountOut hout
  obtain rfl : out = bytes := List.ext_getElem? fun k => by
    by_cases hk : k < bytes.length
    · rw [hout k hk, hcontent k hk]
    · rw [List.getElem?_eq_none (by omega), List.getElem?_eq_none (by omega)]
  refine ⟨_, hexec, ?_, ?_⟩
  · rw [← countVal_eq_ofNat hlt]
    exact s.answered_setFifo_respond f _ _
  · rw [State.fifo_respond, State.fifo_setFifo_same]
    obtain ⟨hput, hget, -, -⟩ := hshape.indices
    rw [Fifo.occC_toNat, hcrossed] at hcount
    have hleft := hshape.span_advance_lower (n := BitVec.ofNat 16 out.length) hv hput hget (by omega)
    apply BitVec.eq_of_toNat_eq
    change (s.fifo f).span (s.fifo f).putIndex ((s.fifo f).advance (s.fifo f).getIndex _) = 0
    omega

/-- Settles O58. -/
theorem bulkRoundTrip : Obligations.BulkRoundTrip := by
  intro s f payload hinv hv heager hempty hsync hpaused hup hne hlt
  have hwrite := s.sameCore_withActive (producerPort f)
  rw [← hwrite.fifo f] at hv heager hempty hlt
  obtain ⟨t₁, t₂, t₃, hexec, hlaunch, hland, hctl, hholds⟩ := State.bulkWrite_crosses
    (State.admitted_move (portRole_producerPort f) hv hpaused hup) (hinv.congr hwrite.control.params (hwrite.fifo f))
    heager hempty hsync hne hlt
  have hread := t₃.sameCore_withActive (consumerPort f)
  have hholds' := hholds.congr hread
  obtain ⟨t₄, hexec', hanswer, hdone⟩ := hholds'.bulkRead
    (State.admitted_move (portRole_consumerPort f) hholds'.valid (hctl.paused.trans hpaused) (hctl.uartUp.trans hup))
  exact ⟨t₁, t₂, t₃, t₄, hexec, hlaunch, hland, hexec', hanswer, hdone⟩

end Sys2Proof.Machine
end

section
/-! What can stop the machine (spec/70_reset_and_hazards.md R228, spec/30_encoding.md R67): no command is refused, and
from the invariant only a read of an unwritten byte faults, at a consumer port. -/

namespace Sys2Proof.Machine

open Sys2Proof

/-- The result is no refusal, and a fault only where `P` allows it. -/
def StopsOnlyBy (P : Fault → Prop) : Result → Prop
  | .next _ => True
  | .fault e => P e
  | .refused _ => False

/-- R228: from the invariant, an unwritten byte read at a consumer port. -/
def State.MayFault (s : State) (e : Fault) : Prop := s.Inv → e = .unwrittenByte ∧ ∃ f, s.active = consumerPort f

/-! ## Responses, storage accesses and checks -/

section Checks

variable {s : State} {P : Fault → Prop}

@[simp] theorem stopsOnlyBy_done (val : BitVec 24) (rsp1 : Option Word) (payload : List Byte) :
    StopsOnlyBy P (s.done val rsp1 payload) := trivial

@[simp] theorem stopsOnlyBy_raise (status : Status) (second : Bool) : StopsOnlyBy P (s.raise status second) := trivial

@[simp] theorem stopsOnlyBy_raiseContract (f : FifoId) : StopsOnlyBy P (s.raiseContract f) := trivial

theorem stopsOnlyBy_unless {c : Prop} [Decidable c] {status : Status} {k : Result} (hk : StopsOnlyBy P k) :
    StopsOnlyBy P (if c then s.raise status else k) := by
  split
  · exact stopsOnlyBy_raise _ _
  · exact hk

theorem stopsOnlyBy_orFault {α : Type} {r : Except Fault α} {k : α → Result} (hr : ∀ e, r = .error e → P e)
    (hk : ∀ a, StopsOnlyBy P (k a)) : StopsOnlyBy P (orFault r k) := by
  cases r with
  | error e => exact hr e rfl
  | ok a => exact hk a

theorem stopsOnlyBy_atSide {want : Side} {cls : CommandClass} {second : Bool} {k : FifoId → Result}
    (hk : ∀ f, s.Admitted f want cls → StopsOnlyBy P (k f)) : StopsOnlyBy P (s.atSide want cls second k) := by
  obtain ⟨-, heq⟩ | ⟨f, -, -, heq⟩ | ⟨f, hadm, heq⟩ := s.atSide_cases want cls second k <;> rw [heq]
  · exact stopsOnlyBy_raise _ _
  · exact stopsOnlyBy_raise _ _
  · exact hk f hadm

theorem stopsOnlyBy_atEitherSide {cls : CommandClass} {k : FifoId → Side → Result}
    (hk : ∀ f side, StopsOnlyBy P (k f side)) : StopsOnlyBy P (s.atEitherSide cls k) := by
  unfold State.atEitherSide
  split
  · exact stopsOnlyBy_raise _ _
  · split
    · exact hk _ _
    · exact stopsOnlyBy_raise _ _

theorem stopsOnlyBy_atControlInRest {k : Result} (hk : StopsOnlyBy P k) : StopsOnlyBy P (s.atControlInRest k) := by
  obtain ⟨-, heq⟩ | ⟨-, -, heq⟩ | ⟨-, -, heq⟩ := s.atControlInRest_cases k <;> rw [heq]
  · exact stopsOnlyBy_raise _ _
  · exact stopsOnlyBy_raise _ _
  · exact hk

end Checks

/-! ## The commands -/

/-- R228: a read at the consumer port. -/
theorem State.Admitted.mayFault {s : State} {f : FifoId} {e : Fault} {cls : CommandClass}
    (hadm : s.Admitted f .consumer cls) (he : s.FifoInv f → e = .unwrittenByte) : s.MayFault e :=
  fun h => ⟨he (h.fifo f), f, portRole_eq_consumer hadm.1⟩

/-- R40: a write of which the invariant says that its addresses exist. -/
theorem State.mayFault_of_write {s : State} {f : FifoId} {e : Fault} {α : Type} {r : Except Fault α}
    (hok : s.FifoInv f → ∃ a, r = .ok a) (he : r = .error e) : s.MayFault e := by
  intro h
  obtain ⟨a, ha⟩ := hok (h.fifo f)
  cases ha.symm.trans he

theorem execPut_stops (b : Byte) (s : State) : StopsOnlyBy s.MayFault (execPut b s) :=
  stopsOnlyBy_atSide fun _ hadm => stopsOnlyBy_unless <| stopsOnlyBy_orFault
    (fun _ => State.mayFault_of_write fun h => State.memWrite_total (h.shape.addr_lt hadm.valid))
    fun _ => stopsOnlyBy_done _ _ _

theorem execBulkWrite_stops (payload : List Byte) (s : State) : StopsOnlyBy s.MayFault (execBulkWrite payload s) :=
  stopsOnlyBy_atSide fun _ hadm => stopsOnlyBy_unless <| stopsOnlyBy_orFault
    (fun _ => State.mayFault_of_write fun h => State.memWrite_total (h.shape.addr_lt hadm.valid))
    fun _ => stopsOnlyBy_done _ _ _

theorem execStb_stops (addr : Index) (b : Byte) (s : State) : StopsOnlyBy s.MayFault (execStb addr b s) := by
  refine stopsOnlyBy_atSide fun f hadm => ?_
  split
  case h_1 => exact stopsOnlyBy_raiseContract f
  case h_2 l hl =>
    split
    case isTrue hcov =>
      exact stopsOnlyBy_orFault
        (fun e => State.mayFault_of_write fun h =>
          ⟨_, (State.store_ok_iff s _ f _ b).2 ⟨h.windows.write_lt h.shape hl hcov, rfl⟩⟩) (by simp)
    case isFalse => exact stopsOnlyBy_raiseContract f

theorem execGet_stops (s : State) : StopsOnlyBy s.MayFault (execGet s) :=
  stopsOnlyBy_atSide fun _ hadm => stopsOnlyBy_unless <| stopsOnlyBy_orFault
    (fun _ he => hadm.mayFault fun h => State.load_error (h.shape.addr_lt hadm.valid _) he)
    fun _ => stopsOnlyBy_done _ _ _

theorem execBulkRead_stops (len : Index) (s : State) : StopsOnlyBy s.MayFault (execBulkRead len s) :=
  stopsOnlyBy_atSide fun _ hadm => stopsOnlyBy_unless <| stopsOnlyBy_orFault
    (fun _ he => hadm.mayFault fun h => State.memRead_error (h.shape.addr_lt hadm.valid) he)
    fun _ => stopsOnlyBy_done _ _ _

theorem execPeekAt_stops (index : Index) (s : State) : StopsOnlyBy s.MayFault (execPeekAt index s) :=
  stopsOnlyBy_atSide fun _ hadm => stopsOnlyBy_unless <| stopsOnlyBy_orFault
    (fun _ he => hadm.mayFault fun h => State.load_error (h.shape.addr_lt hadm.valid _) he)
    fun _ => stopsOnlyBy_done _ _ _

theorem execFind_stops (pattern : List Byte) (s : State) : StopsOnlyBy s.MayFault (execFind pattern s) := by
  refine stopsOnlyBy_unless (stopsOnlyBy_atSide fun f hadm => stopsOnlyBy_unless (stopsOnlyBy_orFault
    (fun e he => hadm.mayFault fun h => State.findFrom_error (h.shape.addr_lt hadm.valid) he) fun found => ?_))
  cases found with
  | some k => exact stopsOnlyBy_done _ _ _
  | none => exact stopsOnlyBy_raise _ _

theorem execLdb_stops (addr : Index) (s : State) : StopsOnlyBy s.MayFault (execLdb addr s) := by
  refine stopsOnlyBy_atSide fun f hadm => ?_
  split
  case h_1 => exact stopsOnlyBy_raiseContract f
  case h_2 l hl =>
    split
    case isTrue hcov =>
      exact stopsOnlyBy_orFault
        (fun e he => hadm.mayFault fun h => State.load_error (h.windows.read_lt h.shape hl hcov) he) (by simp)
    case isFalse => exact stopsOnlyBy_raiseContract f

/-- R113: no storage access. -/
theorem execMarkP_stops (len : Index) (s : State) : StopsOnlyBy s.MayFault (execMarkP len s) := by
  refine stopsOnlyBy_atSide fun f _ => ?_
  split
  · exact stopsOnlyBy_raiseContract f
  · split <;> simp

/-- R111: no storage access. -/
theorem execMarkC_stops (len : Index) (s : State) : StopsOnlyBy s.MayFault (execMarkC len s) := by
  refine stopsOnlyBy_atSide fun f _ => ?_
  split
  · exact stopsOnlyBy_raiseContract f
  · split <;> simp

theorem execInit_stops (g : FifoId) (c : BitVec 24) (s : State) : StopsOnlyBy s.MayFault (execInit g c s) := by
  refine stopsOnlyBy_atControlInRest (stopsOnlyBy_unless ?_)
  split
  · exact stopsOnlyBy_raise _ _
  · exact stopsOnlyBy_done _ _ _

theorem execLineState_stops (dtr rts : Bool) (s : State) : StopsOnlyBy s.MayFault (execLineState dtr rts s) := by
  refine stopsOnlyBy_atControlInRest ?_
  split <;> exact stopsOnlyBy_done _ _ _

theorem execRdreg_stops (g : FifoId) (n : BitVec 8) (s : State) : StopsOnlyBy s.MayFault (execRdreg g n s) := by
  unfold execRdreg State.atControl
  split
  case isFalse => exact stopsOnlyBy_raise _ _
  case isTrue =>
    split
    case h_1 => exact stopsOnlyBy_raise _ _
    case h_2 => split <;> exact stopsOnlyBy_done _ _ _

/-- R67, R228: what can stop a command. -/
theorem exec_stops (i : Instr) (s : State) : StopsOnlyBy s.MayFault (exec i s) := by
  cases i with
  | put b => exact execPut_stops b s
  | get => exact execGet_stops s
  | elems | free => exact stopsOnlyBy_atEitherSide fun _ _ => stopsOnlyBy_done _ _ _
  | bulkWrite payload => exact execBulkWrite_stops payload s
  | bulkRead len => exact execBulkRead_stops len s
  | peekR | peekW => exact stopsOnlyBy_atSide fun _ _ => stopsOnlyBy_done _ _ _
  | markC len => exact execMarkC_stops len s
  | markP len => exact execMarkP_stops len s
  | find pattern => exact execFind_stops pattern s
  | peekAt index => exact execPeekAt_stops index s
  | ldb addr => exact execLdb_stops addr s
  | stb addr b => exact execStb_stops addr b s
  | init f c => exact execInit_stops f c s
  | lineCoding stopRaw parityRaw dataRaw baud => exact stopsOnlyBy_atControlInRest (stopsOnlyBy_done _ _ _)
  | lineState dtr rts => exact execLineState_stops dtr rts s
  | rdreg f n => exact execRdreg_stops f n s

/-! ## Steps -/

theorem StopsOnlyBy.mono {P Q : Fault → Prop} {r : Result} (h : StopsOnlyBy P r) (hpq : ∀ e, P e → Q e) :
    StopsOnlyBy Q r := by
  cases r with
  | next => trivial
  | fault e => exact hpq e h
  | refused => exact h.elim

theorem portTurn_stops (p : PortId) (s : State) :
    StopsOnlyBy (fun e => s.Inv → e = .unwrittenByte ∧ ∃ f, p = consumerPort f) (portTurn p s) := by
  unfold portTurn
  split
  case h_1 | h_2 => trivial
  case h_3 i words bytes _ =>
    refine (exec_stops i _).mono fun e he h => ?_
    simpa using he (h.congr (s.sameCore_accept p words bytes))

/-- R8, R228: what can stop a step. -/
theorem step_stops (s : State) :
    StopsOnlyBy (fun e => s.Inv → e = .unwrittenByte ∧ ∃ f, s.takeTurn.1 = .port (consumerPort f)) (step s) := by
  obtain ⟨⟨m, u⟩, hturn⟩ : ∃ mu, s.takeTurn = mu := ⟨_, rfl⟩
  have hcore := s.sameCore_takeTurn
  rw [hturn] at hcore ⊢
  by_cases hport : ∃ p, m = .port p
  · obtain ⟨p, rfl⟩ := hport
    rw [step_of_port_turn hturn]
    refine (portTurn_stops p u).mono fun e he h => ?_
    simpa using he (h.congr hcore)
  · rw [step_of_internal_turn hturn fun p hp => hport ⟨p, hp⟩]
    trivial

/-- Settles O60. -/
theorem stepNeverRefuses : Obligations.StepNeverRefuses := by
  refine ⟨fun s r hstep => ?refused, fun s e h hstep => ?fault⟩
  case refused => simpa [hstep, StopsOnlyBy] using step_stops s
  case fault =>
    have hstops := step_stops s
    rw [hstep] at hstops
    exact hstops h

end Sys2Proof.Machine
end

section
/-! Decoding what the encoder writes (spec/30_encoding.md R61, R63 to R65): the fields of a command word, where the
operands stand in it, and the round trip. -/

namespace Sys2Proof

/-! ## The fields of a command word -/

section Fields

variable (op : BitVec 5) (f : BitVec 1) (z : BitVec 2) (arg : BitVec 24)

@[simp] theorem opField_append : opField (op ++ f ++ z ++ arg) = op := by
  unfold opField
  rw [BitVec.extractLsb'_append_eq_of_le (w := 24) (by decide), BitVec.extractLsb'_append_eq_of_le (by decide)]
  exact BitVec.extractLsb'_append_eq_left

@[simp] theorem fField_append : fField (op ++ f ++ z ++ arg) = f := by
  unfold fField
  rw [BitVec.extractLsb'_append_eq_of_le (w := 24) (by decide), BitVec.extractLsb'_append_eq_of_le (by decide)]
  exact BitVec.extractLsb'_append_eq_right

@[simp] theorem zField_append : zField (op ++ f ++ z ++ arg) = z := by
  unfold zField
  rw [BitVec.extractLsb'_append_eq_of_le (w := 24) (by decide)]
  exact BitVec.extractLsb'_append_eq_right

@[simp] theorem argField_append : argField (op ++ f ++ z ++ arg) = arg := BitVec.extractLsb'_append_eq_right

@[simp] theorem opField_commandWord : opField (commandWord op f arg) = op := opField_append op f 0#2 arg

@[simp] theorem fField_commandWord : fField (commandWord op f arg) = f := fField_append op f 0#2 arg

@[simp] theorem zField_commandWord : zField (commandWord op f arg) = 0#2 := zField_append op f 0#2 arg

@[simp] theorem argField_commandWord : argField (commandWord op f arg) = arg := argField_append op f 0#2 arg

/-- R61, R65: an operand field lies in `arg`. -/
theorem commandWord_extractLsb' {start len : Nat} (h : start + len ≤ 24) :
    (commandWord op f arg).extractLsb' start len = arg.extractLsb' start len :=
  BitVec.extractLsb'_append_eq_of_add_le h

/-- A one-byte operand (R65). -/
@[simp] theorem arg8_commandWord (upper : BitVec 16) (b : Byte) : arg8 (commandWord op f (upper ++ b)) = b :=
  (commandWord_extractLsb' op f _ (by decide)).trans BitVec.extractLsb'_append_eq_right

/-- A `len`, `index` or `addr` operand (R65). -/
@[simp] theorem arg16_commandWord (n : Index) : arg16 (commandWord op f (lenArg n)) = n :=
  (commandWord_extractLsb' op f _ (by decide)).trans BitVec.extractLsb'_append_eq_right

/-- The address of STB (R65). -/
@[simp] theorem addrField_commandWord (addr : Index) (b : Byte) :
    (commandWord op f (addr ++ b)).extractLsb' 8 16 = addr :=
  (commandWord_extractLsb' op f _ (by decide)).trans BitVec.extractLsb'_append_eq_left

/-- The upper two raw values of LINE_CODING (R65). -/
@[simp] theorem stopField_commandWord (stopRaw parityRaw dataRaw : Byte) :
    (commandWord op f (stopRaw ++ parityRaw ++ dataRaw)).extractLsb' 16 8 = stopRaw := by
  rw [commandWord_extractLsb' op f _ (by decide)]
  exact (BitVec.extractLsb'_append_eq_of_le (by decide)).trans BitVec.extractLsb'_append_eq_left

@[simp] theorem parityField_commandWord (stopRaw parityRaw dataRaw : Byte) :
    (commandWord op f (stopRaw ++ parityRaw ++ dataRaw)).extractLsb' 8 8 = parityRaw := by
  rw [commandWord_extractLsb' op f _ (by decide)]
  exact (BitVec.extractLsb'_append_eq_of_le (by decide)).trans BitVec.extractLsb'_append_eq_right

end Fields

/-! ## The operands -/

theorem zero_append_shiftRight {k n : Nat} (x : BitVec n) : (0#k ++ x) >>> n = 0#(k + n) := by
  apply BitVec.eq_of_toNat_eq
  simp [Nat.shiftRight_eq_div_pow, x.isLt]

@[simp] theorem byteArg_shiftRight (b : Byte) : (0#16 ++ b) >>> 8 = 0#24 := zero_append_shiftRight b

@[simp] theorem lenArg_shiftRight (n : Index) : lenArg n >>> 16 = 0#24 := zero_append_shiftRight n

@[simp] theorem fifoOfBit_bitOfFifo (f : FifoId) : fifoOfBit (bitOfFifo f) = f := by cases f <;> rfl

/-! ## What follows the command word -/

/-- R63: the payload words of a command. -/
def Instr.payloadWords : Instr → List Word
  | .lineCoding _ _ _ baud => [baud]
  | _ => []

theorem encodeWords_eq_cons (i : Instr) : encodeWords i = encodeWord i :: i.payloadWords := by cases i <;> rfl

theorem payloadWordCount_encodeWord (i : Instr) : payloadWordCount (encodeWord i) = i.payloadWords.length := by
  cases i <;> simp [payloadWordCount, encodeWord, Instr.payloadWords]

/-- R63: the `len` operand counts the payload bytes of a well-formed command. -/
theorem payloadByteCount_encodeWord {i : Instr} (hwf : i.wf = true) :
    payloadByteCount (encodeWord i) = (encodeBytes i).length := by
  cases i with
  | bulkWrite payload | find payload =>
    have hlen : payload.length < 65536 := by simpa [Instr.wf, payloadFits] using hwf
    simpa [payloadByteCount, encodeWord, encodeBytes] using hlen
  | _ => simp [payloadByteCount, encodeWord, encodeBytes]

/-! ## The front of a port's input -/

/-- R63: the decoder waits for a payload that has not wholly arrived. -/
theorem decode_of_short {w : Word} {ws : List Word} {bytes : List Byte}
    (h : bytes.length < payloadByteCount w ∨ ws.length < payloadWordCount w) :
    decode (w :: ws) bytes = .incomplete := by
  rw [decode, if_pos h]

section Arrived

variable {w : Word} {ws : List Word} {bytes : List Byte} (hbytes : payloadByteCount w ≤ bytes.length)
  (hwords : payloadWordCount w ≤ ws.length)

include hbytes hwords

theorem decode_of_instrOf_ok {i : Instr}
    (h : instrOf w (bytes.take (payloadByteCount w)) (ws.headD 0#32) = .ok i) :
    decode (w :: ws) bytes = .instr i (ws.drop (payloadWordCount w)) (bytes.drop (payloadByteCount w)) := by
  rw [decode, if_neg (by omega), h]

theorem decode_of_instrOf_error {r : Reject}
    (h : instrOf w (bytes.take (payloadByteCount w)) (ws.headD 0#32) = .error r) :
    decode (w :: ws) bytes = .illegal r (ws.drop (payloadWordCount w)) (bytes.drop (payloadByteCount w)) := by
  rw [decode, if_neg (by omega), h]

end Arrived

/-! ## The round trip -/

/-- R64, R65: the decoder finds every operand where the encoder put it, by the field and operand lemmas above. -/
theorem instrOf_encodeWord (i : Instr) (words : List Word) :
    instrOf (encodeWord i) (encodeBytes i) ((i.payloadWords ++ words).headD 0#32) = .ok i := by
  cases i with
  | lineState dtr rts => cases dtr <;> cases rts <;> rfl
  | _ => simp [instrOf, encodeWord, encodeBytes, plain, Instr.payloadWords, BitVec.ushiftRight_eq_zero]

/-- Settles O1: the payload counts of the encoded word are the lengths of what the encoder wrote after it. -/
theorem decodeEncodeRoundTrip : Obligations.DecodeEncodeRoundTrip := by
  intro i hwf words bytes
  have hbytes := payloadByteCount_encodeWord hwf
  have hwords := payloadWordCount_encodeWord i
  rw [encodeWords_eq_cons, List.cons_append, decode_of_instrOf_ok (i := i) (by simp [hbytes]) (by simp [hwords])]
  · simp [hbytes, hwords]
  · simpa [hbytes] using instrOf_encodeWord i words

end Sys2Proof
end

section
/-! The opcode table and the decoder (spec/30_encoding.md R61, R64, R65, R67): a row's match and mask as conditions on
the fields of a word, and what the decoder makes of a word, row by row. -/

namespace Sys2Proof

/-! ## Rows as fields -/

/-- R61: the four fields are the whole word. -/
theorem append_fields (w : Word) : opField w ++ fField w ++ zField w ++ argField w = w := by
  unfold opField fField zField argField
  rw [BitVec.extractLsb'_append_extractLsb'_eq_extractLsb' (start₁ := 26) (len₁ := 1) rfl,
    BitVec.extractLsb'_append_extractLsb'_eq_extractLsb' (start₁ := 24) (len₁ := 2) rfl]
  exact (BitVec.extractLsb'_append_extractLsb'_eq_extractLsb' rfl).trans BitVec.extractLsb'_eq_self

theorem word_ext_iff {w v : Word} :
    w = v ↔ opField w = opField v ∧ fField w = fField v ∧ zField w = zField v ∧ argField w = argField v := by
  refine ⟨fun h => by simp [h], fun ⟨hop, hf, hz, harg⟩ => ?_⟩
  rw [← append_fields w, ← append_fields v, hop, hf, hz, harg]

/-- The bits from `k` on are zero when masking the lower ones away leaves zero. -/
theorem and_highBits_eq_zero_iff {n : Nat} (x : BitVec n) (k : Nat) :
    x &&& (BitVec.allOnes n <<< k) = 0#n ↔ x >>> k = 0#n := by
  rw [← BitVec.shiftLeft_ushiftRight]
  refine ⟨fun h => BitVec.eq_of_getLsbD_eq fun i hi => ?_, fun h => by rw [h]; simp⟩
  have hbit := congrArg (BitVec.getLsbD · (i + k)) h
  by_cases hk : i + k < n
  · simpa [hk, BitVec.getLsbD_shiftLeft] using hbit
  · simp [BitVec.getLsbD_of_ge x (k + i) (by omega)]

/-- R61, R64: a row of the opcode table by the fields of the word: its `op`, the bits of `f` that must be zero, and how
many low bits of `arg` are operands. -/
structure OpcodeRow.HasFormat (row : OpcodeRow) (op : BitVec 5) (fMask : BitVec 1) (operandBits : Nat) : Prop where
  matchWord : row.matchWord = commandWord op 0#1 0#24
  maskWord : row.maskWord = 0x1F#5 ++ fMask ++ 3#2 ++ (BitVec.allOnes 24 <<< operandBits)

theorem OpcodeRow.HasFormat.covers_iff {row : OpcodeRow} {op : BitVec 5} {fMask : BitVec 1} {operandBits : Nat}
    (h : row.HasFormat op fMask operandBits) (w : Word) :
    row.covers w ↔
      opField w = op ∧ fField w &&& fMask = 0#1 ∧ zField w = 0#2 ∧ argField w >>> operandBits = 0#24 := by
  have hop : ∀ v, opField (w &&& v) = opField w &&& opField v := fun v => BitVec.extractLsb'_and
  have hf : ∀ v, fField (w &&& v) = fField w &&& fField v := fun v => BitVec.extractLsb'_and
  have hz : ∀ v, zField (w &&& v) = zField w &&& zField v := fun v => BitVec.extractLsb'_and
  have harg : ∀ v, argField (w &&& v) = argField w &&& argField v := fun v => BitVec.extractLsb'_and
  rw [OpcodeRow.covers, word_ext_iff, h.matchWord, h.maskWord, commandWord, hop, hf, hz, harg,
    ← and_highBits_eq_zero_iff]
  simp only [opField_append, fField_append, zField_append, argField_append]
  rw [show (0x1F#5) = BitVec.allOnes 5 from rfl, show 3#2 = BitVec.allOnes 2 from rfl]
  simp only [BitVec.and_allOnes]

/-! ## The decoder, row by row -/

/-- What the decoder makes of a word by a row of the table: the row's command when the row covers the word, else no
command. -/
def OpcodeRow.Decides (row : OpcodeRow) (w : Word) (payload : List Byte) (baud : Word) : Prop :=
  (row.covers w ∧ ∃ i, instrOf w payload baud = .ok i ∧ i.mnemonic = row.mnemonic) ∨
  (¬ row.covers w ∧ ∃ r, instrOf w payload baud = .error r)

section Rows

variable {w : Word} {payload : List Byte} {baud : Word} {row : OpcodeRow} {op : BitVec 5}

theorem OpcodeRow.Decides.of_format (i : Instr) (fMask : BitVec 1) (k : Nat) (h : row.HasFormat op fMask k)
    (hop : opField w = op) (hm : i.mnemonic = row.mnemonic)
    (hi : instrOf w payload baud =
      if fField w &&& fMask = 0#1 ∧ zField w = 0#2 ∧ argField w >>> k = 0#24 then .ok i else .error .reservedBits) :
    row.Decides w payload baud := by
  rw [OpcodeRow.Decides, h.covers_iff, hi]
  split
  case isTrue hfit => exact .inl ⟨⟨hop, hfit⟩, i, rfl, hm⟩
  case isFalse hfit => exact .inr ⟨fun hc => hfit hc.2, .reservedBits, rfl⟩

/-- R61, R65: the rows of the commands without the `f` bit. -/
theorem OpcodeRow.Decides.of_plain (i : Instr) (k : Nat) (h : row.HasFormat op 1#1 k) (hop : opField w = op)
    (hm : i.mnemonic = row.mnemonic)
    (hi : instrOf w payload baud = if zField w = 0#2 then plain w k i else .error .reservedBits) :
    row.Decides w payload baud := by
  refine .of_format i 1#1 k h hop hm ?_
  rw [hi, plain, show 1#1 = BitVec.allOnes 1 from rfl, BitVec.and_allOnes]
  by_cases hz : zField w = 0#2 <;> simp [hz]

end Rows

/-- R64: one format and one command for each row of the table. -/
theorem OpcodeRow.decides_of_op {row : OpcodeRow} (hrow : row ∈ opcodeTable) {w : Word}
    (hop : opField w = opField row.matchWord) (payload : List Byte) (baud : Word) : row.Decides w payload baud := by
  simp only [opcodeTable, dataRows, controlRows, List.cons_append, List.nil_append, List.mem_cons, List.not_mem_nil,
    or_false] at hrow
  rcases hrow with rfl | rfl | rfl | rfl | rfl | rfl | rfl | rfl | rfl | rfl | rfl | rfl | rfl | rfl | rfl | rfl |
    rfl | rfl
  · exact .of_plain (.put (arg8 w)) 8 ⟨rfl, rfl⟩ hop rfl (by rw [instrOf, hop]; rfl)
  · exact .of_plain .get 0 ⟨rfl, rfl⟩ hop rfl (by rw [instrOf, hop]; rfl)
  · exact .of_plain .elems 0 ⟨rfl, rfl⟩ hop rfl (by rw [instrOf, hop]; rfl)
  · exact .of_plain .free 0 ⟨rfl, rfl⟩ hop rfl (by rw [instrOf, hop]; rfl)
  · exact .of_plain (.bulkWrite payload) 16 ⟨rfl, rfl⟩ hop rfl (by rw [instrOf, hop]; rfl)
  · exact .of_plain (.bulkRead (arg16 w)) 16 ⟨rfl, rfl⟩ hop rfl (by rw [instrOf, hop]; rfl)
  · exact .of_plain .peekR 0 ⟨rfl, rfl⟩ hop rfl (by rw [instrOf, hop]; rfl)
  · exact .of_plain (.markC (arg16 w)) 16 ⟨rfl, rfl⟩ hop rfl (by rw [instrOf, hop]; rfl)
  · exact .of_plain .peekW 0 ⟨rfl, rfl⟩ hop rfl (by rw [instrOf, hop]; rfl)
  · exact .of_plain (.markP (arg16 w)) 16 ⟨rfl, rfl⟩ hop rfl (by rw [instrOf, hop]; rfl)
  · exact .of_plain (.find payload) 16 ⟨rfl, rfl⟩ hop rfl (by rw [instrOf, hop]; rfl)
  · exact .of_plain (.peekAt (arg16 w)) 16 ⟨rfl, rfl⟩ hop rfl (by rw [instrOf, hop]; rfl)
  · exact .of_plain (.ldb (arg16 w)) 16 ⟨rfl, rfl⟩ hop rfl (by rw [instrOf, hop]; rfl)
  · exact .of_plain (.stb (w.extractLsb' 8 16) (arg8 w)) 24 ⟨rfl, rfl⟩ hop rfl (by rw [instrOf, hop]; rfl)
  · change opField w = 0x10#5 at hop
    exact .of_format (.init (fifoOfBit (fField w)) (argField w)) 0#1 24 ⟨rfl, rfl⟩ hop rfl
      (by simp [instrOf, hop, BitVec.ushiftRight_eq_zero])
  · exact .of_plain (.lineCoding (w.extractLsb' 16 8) (w.extractLsb' 8 8) (arg8 w) baud) 24 ⟨rfl, rfl⟩ hop rfl
      (by rw [instrOf, hop]; rfl)
  · exact .of_plain (.lineState (w.getLsbD 0) (w.getLsbD 1)) 2 ⟨rfl, rfl⟩ hop rfl (by rw [instrOf, hop]; rfl)
  · change opField w = 0x13#5 at hop
    exact .of_format (.rdreg (fifoOfBit (fField w)) (arg8 w)) 0#1 8 ⟨rfl, rfl⟩ hop rfl
      (by simp [instrOf, hop])

/-! ## The whole table -/

/-- R64: a covered word has the row's `op`. -/
theorem opField_of_covers {row : OpcodeRow} (hrow : row ∈ opcodeTable) {w : Word} (h : row.covers w) :
    opField w = opField row.matchWord := by
  have hmask : opField row.maskWord = BitVec.allOnes 5 :=
    (by decide : ∀ row ∈ opcodeTable, opField row.maskWord = BitVec.allOnes 5) row hrow
  have hand : opField (w &&& row.maskWord) = opField w &&& opField row.maskWord := BitVec.extractLsb'_and
  rw [← h, hand, hmask, BitVec.and_allOnes]

theorem opcodeTable_mnemonic_inj :
    ∀ row ∈ opcodeTable, ∀ row' ∈ opcodeTable, row.mnemonic = row'.mnemonic → row = row' := by decide

/-- R64, R67: an `op` is some row's or reserved. -/
theorem op_cases : ∀ op : BitVec 5,
    (∃ row ∈ opcodeTable, op = opField row.matchWord) ∨ op = 0x00#5 ∨ op = 0x0F#5 ∨ 0x14#5 ≤ op := by decide

theorem instrOf_of_reservedOp {w : Word} (h : opField w = 0x00#5 ∨ opField w = 0x0F#5 ∨ 0x14#5 ≤ opField w)
    (payload : List Byte) (baud : Word) : instrOf w payload baud = .error .reservedOpcode := by
  unfold instrOf
  split
  case h_19 => rfl
  all_goals bv_omega

section Covered

variable {w : Word} {payload : List Byte} {baud : Word}

/-- R64: a covered word is its row's command. -/
theorem instrOf_of_covers {row : OpcodeRow} (hrow : row ∈ opcodeTable) (h : row.covers w) :
    ∃ i, instrOf w payload baud = .ok i ∧ i.mnemonic = row.mnemonic := by
  obtain ⟨-, hi⟩ | ⟨hnot, -⟩ := OpcodeRow.decides_of_op hrow (opField_of_covers hrow h) payload baud
  · exact hi
  · exact absurd h hnot

/-- R64, R67: a word that is a command is covered by the row of its mnemonic. -/
theorem covers_of_instrOf_ok {i : Instr} (h : instrOf w payload baud = .ok i) :
    ∃ row ∈ opcodeTable, row.covers w ∧ i.mnemonic = row.mnemonic := by
  obtain ⟨row, hrow, hop⟩ | hreserved := op_cases (opField w)
  · obtain ⟨hc, j, hj, hm⟩ | ⟨-, r, hr⟩ := OpcodeRow.decides_of_op hrow hop payload baud
    · cases hj.symm.trans h
      exact ⟨row, hrow, hc, hm⟩
    · exact nomatch hr.symm.trans h
  · exact nomatch (instrOf_of_reservedOp hreserved payload baud).symm.trans h

/-- R67: a word no row covers is no command. -/
theorem instrOf_of_not_covered (h : ∀ row ∈ opcodeTable, ¬ row.covers w) (payload : List Byte) (baud : Word) :
    ∃ r, instrOf w payload baud = .error r := by
  cases hi : instrOf w payload baud with
  | error r => exact ⟨r, rfl⟩
  | ok i =>
    obtain ⟨row, hrow, hc, -⟩ := covers_of_instrOf_ok hi
    exact absurd hc (h row hrow)

end Covered

/-- Settles O2: a mnemonic names one row of the table. -/
theorem wordIsCommandIffRowCovers : Obligations.WordIsCommandIffRowCovers := by
  intro w payload baud row hrow
  refine ⟨instrOf_of_covers hrow, fun ⟨i, hi, hm⟩ => ?_⟩
  obtain ⟨row', hrow', hc, hm'⟩ := covers_of_instrOf_ok hi
  rwa [opcodeTable_mnemonic_inj row hrow row' hrow' (hm.symm.trans hm')]

end Sys2Proof
end

section
/-! What a port does with input that is no command it accepts (spec/30_encoding.md R60, R62, R63, R67;
spec/40_lifecycle.md R80): it waits for the rest of a command, answers an undecodable word and a command of another port
`Illegal`, and refuses an INIT. -/

namespace Sys2Proof.Machine

open Sys2Proof

/-! ## A port's turn without a command -/

theorem portTurn_of_incomplete {s : State} {p : PortId}
    (h : decode (s.port p).words (s.port p).bytes = .incomplete) : portTurn p s = .next s := by
  rw [portTurn, State.fetch, h]

theorem portTurn_of_illegal {s : State} {p : PortId} {r : Reject} {words : List Word} {bytes : List Byte}
    (h : decode (s.port p).words (s.port p).bytes = .illegal r words bytes) :
    portTurn p s = .next (s.accept p words bytes).answerUndecodable := by
  rw [portTurn, State.fetch, h]

/-- The answer at the active port keeps what waits there. -/
theorem State.port_respond_of (s : State) (r : Response) {p : PortId} (h : s.active = p) :
    (s.respond r).port p = { s.port p with response := some r } := by
  subst h
  exact s.port_setPort_same _ _

/-- Settles O5. -/
theorem portWaitsForWholePayload : Obligations.PortWaitsForWholePayload := by
  rintro s p (hnone | ⟨w, ws, hwords, hshort⟩) <;> apply portTurn_of_incomplete
  · rw [hnone, decode]
  · rw [hwords, decode_of_short hshort]

/-- Settles O6: the decoder rejects the word, and the answer touches only the port's own input and response. -/
theorem undecodableWordEndsIllegal : Obligations.UndecodableWordEndsIllegal := by
  intro s p w ws hwords hrows hbytes hws
  obtain ⟨r, hr⟩ := instrOf_of_not_covered hrows ((s.port p).bytes.take (payloadByteCount w)) (ws.headD 0#32)
  have hdec := decode_of_instrOf_error hbytes hws hr
  rw [← hwords] at hdec
  have hactive := s.accept_active p (ws.drop (payloadWordCount w)) ((s.port p).bytes.drop (payloadByteCount w))
  refine ⟨_, _, portTurn_of_illegal hdec, State.respond_response_of _ _ hactive, rfl, rfl, rfl, ?words, ?bytes,
    fun q hq => ?others, fun f => (State.fifo_respond _ _ f).trans (s.fifo_accept p _ _ f),
    (s.sameControl_accept p _ _).trans (State.sameControl_respond _ _), ?turns, ?freeTurns, ?active⟩
  case words | bytes => rw [State.answerUndecodable, State.port_respond_of _ _ hactive, State.accept_port]
  case others => exact (State.port_respond_ne _ _ (hactive.symm ▸ hq)).trans (s.accept_port_ne _ _ hq)
  case turns => exact (State.respond_turns _ _).trans (s.accept_turns p _ _)
  case freeTurns => exact (State.respond_freeTurns _ _).trans (s.accept_freeTurns p _ _)
  case active => exact (State.respond_active _ _).trans hactive

/-! ## A command at another port -/

theorem State.raise_eq_errorAnswer (s : State) (i : Instr) (status : Status) :
    s.raise status i.hasSecondWord = .next (s.respond (errorAnswer i status)) := rfl

section WrongPort

variable {s : State} {i : Instr}

/-- R67: a command of one side at a port that is not of that side. -/
theorem State.atSide_wrongPort {want : Side} (h : ∀ f, portRole s.active ≠ some (f, want)) (cls : CommandClass)
    (second : Bool) (k : FifoId → Result) : s.atSide want cls second k = s.raise .illegal second := by
  obtain ⟨-, heq⟩ | ⟨f, hport, -⟩ | ⟨f, hadm, -⟩ := s.atSide_cases want cls second k
  · exact heq
  · exact absurd hport (h f)
  · exact absurd hadm.1 (h f)

theorem State.atEitherSide_wrongPort (hp : ∀ f, portRole s.active ≠ some (f, .producer))
    (hc : ∀ f, portRole s.active ≠ some (f, .consumer)) (cls : CommandClass) (k : FifoId → Side → Result) :
    s.atEitherSide cls k = s.raise .illegal := by
  unfold State.atEitherSide
  split
  case h_1 => rfl
  case h_2 f side hport =>
    cases side with
    | producer => exact absurd hport (hp f)
    | consumer => exact absurd hport (hc f)

theorem portRole_ne_producer {p : PortId} (hi : i.onProducerPort = true) (h : portAccepts p i = false) (f : FifoId) :
    portRole p ≠ some (f, .producer) := by
  intro hport
  simp [portAccepts, hport, hi] at h

theorem portRole_ne_consumer {p : PortId} (hi : i.onConsumerPort = true) (h : portAccepts p i = false) (f : FifoId) :
    portRole p ≠ some (f, .consumer) := by
  intro hport
  simp [portAccepts, hport, hi] at h

theorem ne_k_of_onControlPort {p : PortId} (hi : i.onControlPort = true) (h : portAccepts p i = false) : p ≠ .k := by
  rintro rfl
  simp [portAccepts, portRole, hi] at h

end WrongPort

/-- Settles O7, by the ports that accept the command: those of one side, those of both, port K. -/
theorem illegalAtWrongPort : Obligations.IllegalAtWrongPort := by
  intro i s h
  rw [← State.raise_eq_errorAnswer]
  cases i with
  | put | bulkWrite | peekW | markP | stb => exact State.atSide_wrongPort (portRole_ne_producer rfl h) _ _ _
  | get | bulkRead | peekR | markC | peekAt | ldb => exact State.atSide_wrongPort (portRole_ne_consumer rfl h) _ _ _
  | find pattern =>
    rw [exec, execFind, State.atSide_wrongPort (portRole_ne_consumer rfl h)]
    exact ite_self _
  | elems | free => exact State.atEitherSide_wrongPort (portRole_ne_producer rfl h) (portRole_ne_consumer rfl h) _ _
  | init | lineCoding | lineState | rdreg => exact if_neg (ne_k_of_onControlPort rfl h)

/-! ## INIT refused -/

theorem exec_init_alreadyInit {s : State} {f : FifoId} (c : BitVec 24) (hk : s.active = .k) (hrest : s.fsm = .rest)
    (h : (s.fifo f).valid = true ∨ (s.fifo f).failed = true) :
    exec (.init f c) s = .next (s.respond (errorAnswer (.init f c) .alreadyInit)) := by
  rw [exec, execInit, State.atControlInRest_accepted hk hrest, if_pos (by simpa using h)]
  rfl

theorem exec_init_invalidSize {s : State} {f : FifoId} {c : BitVec 24} (hk : s.active = .k) (hrest : s.fsm = .rest)
    (hv : (s.fifo f).valid = false) (hf : (s.fifo f).failed = false)
    (hsize : isPowerOfTwo c = false ∨ s.depth f < c.toNat) :
    exec (.init f c) s =
      .next ((s.setFifo f { s.fifo f with failed := true }).respond (errorAnswer (.init f c) .invalidSize)) := by
  rw [exec, execInit, State.atControlInRest_accepted hk hrest, if_neg (by simp [hv, hf]), if_pos (by simpa using hsize)]
  rfl

/-- Settles O14. -/
theorem initRefusesAndRecords : Obligations.InitRefusesAndRecords := by
  refine ⟨⟨rfl, rfl⟩, fun s f c hk hrest => ⟨exec_init_alreadyInit c hk hrest, fun hv hf hsize => ?_⟩⟩
  refine exec_init_invalidSize hk hrest hv hf (hsize.imp_left fun h => ?_)
  rw [← Bool.not_eq_true, isPowerOfTwo_iff, not_exists]
  exact h

end Sys2Proof.Machine
end

section
/-! RESET on one instance (spec/40_lifecycle.md R81, R82) and the sequencer's CLEAR, which performs it on both FIFOs
(spec/46_control.md R156). -/

namespace Sys2Proof.Machine

open Sys2Proof

theorem Fifo.clear_of_valid {x : Fifo} (hv : x.valid = true) :
    x.clear =
      { x with
        putIndex := 0#16, getIndex := 0#16, putSeen := 0#16, getSeen := 0#16
        putMail := none, getMail := none, rdLease := none, wrLease := none } := if_pos hv

/-- R81: RESET does nothing to an instance that is not constructed. -/
theorem Fifo.clear_of_not_valid {x : Fifo} (hv : x.valid = false) : x.clear = x := by
  rw [Fifo.clear_eq_self_iff]
  simp [hv]

/-- R17, R82: with all four indices equal, every view of the occupancy is 0. -/
theorem Fifo.occupancies_clear {x : Fifo} (hv : x.valid = true) :
    x.clear.occTrue = 0#16 ∧ x.clear.occP = 0#16 ∧ x.clear.occC = 0#16 := by
  rw [Fifo.clear_of_valid hv]
  refine ⟨?_, ?_, ?_⟩ <;> exact BitVec.eq_of_toNat_eq (Fifo.span_self _ 0#16)

theorem fsmStep_of_clear {s : State} (h : s.fsm = .clear) : fsmStep s = some (clearStep s) := by
  rw [fsmStep, h]

/-- Settles O42. -/
theorem resetIsIdempotent : Obligations.ResetIsIdempotent :=
  fun x => ⟨x.clear_clear, Fifo.occupancies_clear⟩

/-- Settles O41: the next state is `clearStep s`, whose FIFOs are those of `s` after RESET. -/
theorem clearEmptiesBothFifos : Obligations.ClearEmptiesBothFifos := by
  refine fun s hfsm => ⟨clearStep s, fsmStep_of_clear hfsm, rfl, fun f hv => ?untouched,
    fun f hv => ⟨?cleared, ?empty⟩, rfl⟩
  all_goals rw [fifo_clearStep]
  case untouched => exact Fifo.clear_of_not_valid hv
  case cleared => exact Fifo.clear_of_valid hv
  case empty => exact (Fifo.occupancies_clear hv).1

end Sys2Proof.Machine
end

section
/-! MARK_C and MARK_P within an open window (spec/43_zero_copy.md R111, R113), and PEEK_W followed by MARK_P: a publish
of the whole run keeps the reserved slot (R117). -/

namespace Sys2Proof.Machine

open Sys2Proof

/-! ## The commands, admitted -/

section Commands

variable {s : State} {f : FifoId} {len : Index}

/-- R111. -/
theorem exec_markC_admitted {l : Lease} (hadm : s.Admitted f .consumer .complete) (hl : (s.fifo f).rdLease = some l)
    (hlen : len.toNat ≤ l.run.toNat) :
    exec (.markC len) s =
      .next ((s.setFifo f (Fifo.retired { s.fifo f with rdLease := none } s.params.syncEager len)).respond
        (okWith 0#24)) := by
  rw [exec, execMarkC, State.atSide_admitted hadm, hl]
  dsimp only
  rw [if_neg (Nat.not_lt.2 hlen), State.moveGet_eq, State.setRdLease_setFifo, State.done_eq_okWith]
  rfl

/-- R113. -/
theorem exec_markP_admitted {l : Lease} (hadm : s.Admitted f .producer .complete) (hl : (s.fifo f).wrLease = some l)
    (hlen : len.toNat ≤ l.run.toNat) :
    exec (.markP len) s =
      .next ((s.setFifo f (Fifo.published { s.fifo f with wrLease := none } s.params.syncEager len)).respond
        (okWith 0#24)) := by
  rw [exec, execMarkP, State.atSide_admitted hadm, hl]
  dsimp only
  rw [if_neg (Nat.not_lt.2 hlen), State.movePut_eq, State.setWrLease_setFifo, State.done_eq_okWith]
  rfl

/-- R113, R190: without a window MARK_P of any length is a breach. -/
theorem exec_markP_noWindow (hadm : s.Admitted f .producer .complete) (hl : (s.fifo f).wrLease = none) :
    exec (.markP len) s =
      .next ((s.setFifo f { s.fifo f with fault := true }).respond (errorAnswer (.markP len) .contract)) := by
  rw [exec, execMarkP, State.atSide_admitted hadm, hl]
  rfl

/-- R112. -/
theorem exec_peekW_admitted (hadm : s.Admitted f .producer .move) :
    exec .peekW s =
      .next ((s.setFifo f { s.fifo f with wrLease := windowOf (s.fifo f).putIndex (s.fifo f).writeRun }).respond
        { status := .ok, val := countVal (s.fifo f).writeRun,
          rsp1 := some ((s.fifo f).putIndex.setWidth 32), payload := [] }) := by
  rw [exec, execPeekW, State.atSide_admitted hadm]
  rfl

end Commands

/-- Settles O21. -/
theorem markCRetires : Obligations.MarkCRetires := by
  intro s f len l hadm h hl hlen
  refine ⟨_, exec_markC_admitted hadm hl hlen, s.answered_setFifo_respond f _ _, ?_⟩
  rw [State.fifo_respond, State.fifo_setFifo_same]
  exact ⟨h.advance_mod hadm.valid _ _, rfl, rfl⟩

/-- Settles O23. -/
theorem markPPublishes : Obligations.MarkPPublishes := by
  intro s f len l hadm h hl hlen
  refine ⟨_, exec_markP_admitted hadm hl hlen, s.answered_setFifo_respond f _ _, ?_⟩
  rw [State.fifo_respond, State.fifo_setFifo_same]
  exact ⟨h.advance_mod hadm.valid _ _, rfl, rfl⟩

/-! ## PEEK_W followed at once by MARK_P -/

/-- R212: where PEEK_W was admitted, the MARK_P that follows it at the same port is. -/
theorem State.Admitted.complete_after_open {s : State} {f : FifoId} (h : s.Admitted f .producer .move)
    (l : Option Lease) (r : Response) :
    ((s.setFifo f { s.fifo f with wrLease := l }).respond r).Admitted f .producer .complete :=
  ⟨by simpa using h.1, by simp [State.gate, h.valid, h.not_paused]⟩

theorem Fifo.writeRun_le_freeP (x : Fifo) : x.writeRun ≤ x.freeP := Nat.min_le_left _ _

/-- R112: a run fits an index. -/
theorem Fifo.Shape.writeRun_toNat {x : Fifo} {d : Nat} (h : x.Shape d) (hv : x.valid = true) :
    (BitVec.ofNat 16 x.writeRun).toNat = x.writeRun :=
  Nat.mod_eq_of_lt ((h.lt_capacity_of_le_freeP hv x.writeRun_le_freeP).trans_le (h.capacity_bounds hv).2)

/-- R117: the state after PEEK_W and a MARK_P of the whole run it answered. -/
theorem exec_peekW_markP {s : State} {f : FifoId} (hadm : s.Admitted f .producer .move)
    (hpos : 0 < (s.fifo f).writeRun) :
    ∃ t u, exec .peekW s = .next t ∧ exec (.markP (BitVec.ofNat 16 (s.fifo f).writeRun)) t = .next u ∧
      u.port s.active = { s.port s.active with response := some (okWith 0#24) } ∧
      u.fifo f = Fifo.published { s.fifo f with wrLease := none } s.params.syncEager
        (BitVec.ofNat 16 (s.fifo f).writeRun) := by
  have hopen := exec_peekW_admitted hadm
  rw [windowOf, if_neg hpos.ne'] at hopen
  refine ⟨_, _, hopen, exec_markP_admitted (hadm.complete_after_open _ _)
    (by rw [State.fifo_respond, State.fifo_setFifo_same]) (Nat.le_refl _), ?port, ?fifo⟩
  case port =>
    rw [State.port_respond_of (p := s.active) _ _ (by simp), State.port_setFifo, State.port_respond_of _ _ (by simp),
      State.port_setFifo]
  case fifo => simp

/-- R17, R113: the bytes published are in the true occupancy. -/
theorem Fifo.Sound.occTrue_published {x : Fifo} {d : Nat} {e : Bool} {n : Index} (h : x.Sound d e)
    (hv : x.valid = true) (hn : n.toNat ≤ x.freeP) : (x.published e n).occTrue.toNat = x.occTrue.toNat + n.toNat := by
  obtain ⟨hput, hget, -, -⟩ := h.shape.indices
  obtain ⟨-, hp, hlt⟩ := (h.ordered hv).occupancies h.shape hv
  rw [Fifo.occTrue_toNat] at hp
  unfold Fifo.freeP at hn
  have hroom : x.span x.putIndex x.getIndex + n.toNat < x.capacity.toNat := by omega
  exact h.shape.span_advance_upper hv hput hget hroom

theorem Fifo.ne_of_span_pos {x : Fifo} {a b : Index} (h : 0 < x.span a b) : a ≠ b := by
  rintro rfl
  simp at h

/-- R19: in an ordered FIFO that holds something the producer meets neither the consumer nor its copy of it. -/
theorem Fifo.Ordered.put_ne {x : Fifo} {d : Nat} (ho : x.Ordered) (h : x.Shape d) (hv : x.valid = true)
    (hpos : 0 < x.occTrue.toNat) : x.putIndex ≠ x.getSeen ∧ x.putIndex ≠ x.getIndex := by
  obtain ⟨-, hp, -⟩ := ho.occupancies h hv
  exact ⟨Fifo.ne_of_span_pos (by rw [← Fifo.occP_toNat]; omega), Fifo.ne_of_span_pos hpos⟩

/-- Settles O59: the pair publishes a run within the free space, which keeps the FIFO ordered; an empty run leaves no
window to publish. -/
theorem fullWindowPublishKeepsReservedSlot : Obligations.FullWindowPublishKeepsReservedSlot := by
  intro s f hinv hadm
  have hv := hadm.valid
  have hx := (s.fifoInv_iff_sound f).1 hinv
  refine ⟨fun hpos => ?run, fun hzero => ⟨_, exec_peekW_admitted hadm, fun len => ?none⟩⟩
  case run =>
    have hrun := hx.shape.writeRun_toNat hv
    have hfree := hrun.trans_le (s.fifo f).writeRun_le_freeP
    have hy := hx.published_closing hv hfree
    have hclosed := hx.withWrLease hv (l := none) (by simp)
    have hocc := hclosed.occTrue_published hv hfree
    obtain ⟨t, u, hpeek, hmark, hport, hfifo⟩ := exec_peekW_markP hadm hpos
    rw [← hfifo] at hy hocc
    have hvu : (u.fifo f).valid = true := hfifo ▸ hv
    obtain ⟨-, hp, hlt⟩ := (hy.ordered hvu).occupancies hy.shape hvu
    obtain ⟨hseen, hget⟩ := (hy.ordered hvu).put_ne hy.shape hvu (by omega)
    exact ⟨t, u, hpeek, hmark, hport, hseen, hget, by omega, by omega, hlt⟩
  case none => exact exec_markP_noWindow (hadm.complete_after_open _ _) (by simp [windowOf, hzero])

end Sys2Proof.Machine
end

section
/-! FIND (spec/44_scan.md R130): how the search runs over its candidate offsets, and what a comparison at one of them
answers over content that is all written. -/

namespace Sys2Proof.Machine

open Sys2Proof

section Find

variable {s : State} {f : FifoId} {pattern : List Byte}

/-- R41: a slot counted from the k-th slot of the content holds the content at the sum of the offsets. -/
theorem State.content_add (s : State) (f : FifoId) (k j : Nat) :
    Memory.read (s.fifo f).storage
        ((s.fifo f).addr ((s.fifo f).getIndex + BitVec.ofNat 16 k + BitVec.ofNat 16 j)) = s.content f (k + j) := by
  rw [State.content, BitVec.ofNat_add, BitVec.add_assoc]

/-! ## The search -/

/-- R130: the search passes over candidates at which the pattern does not stand. -/
theorem State.findFrom_skip {k n : Nat} (tries : Nat)
    (hno : ∀ j < n, s.matchAt f ((s.fifo f).getIndex + BitVec.ofNat 16 (k + j)) pattern = .ok false) :
    s.findFrom f pattern k (n + tries) = s.findFrom f pattern (k + n) tries := by
  induction n generalizing k with
  | zero => rw [Nat.zero_add, Nat.add_zero]
  | succ n ih =>
    have hfirst := hno 0 n.succ_pos
    have hrest := ih (k := k + 1) fun j hj => Nat.succ_add_eq_add_succ k j ▸ hno (j + 1) (Nat.succ_lt_succ hj)
    rw [Nat.add_zero] at hfirst
    rw [Nat.succ_add, State.findFrom, hfirst, ← Nat.succ_add_eq_add_succ k n]
    exact hrest

/-- R130: the first match wins. -/
theorem State.findFrom_first {k tries : Nat} (hk : k < tries)
    (hno : ∀ j < k, s.matchAt f ((s.fifo f).getIndex + BitVec.ofNat 16 j) pattern = .ok false)
    (hyes : s.matchAt f ((s.fifo f).getIndex + BitVec.ofNat 16 k) pattern = .ok true) :
    s.findFrom f pattern 0 tries = .ok (some k) := by
  obtain ⟨m, rfl⟩ := Nat.exists_eq_add_of_lt hk
  rw [Nat.add_assoc, State.findFrom_skip (m + 1) (by simpa using hno), Nat.zero_add, State.findFrom, hyes]

theorem State.findFrom_none {tries : Nat}
    (hno : ∀ j < tries, s.matchAt f ((s.fifo f).getIndex + BitVec.ofNat 16 j) pattern = .ok false) :
    s.findFrom f pattern 0 tries = .ok none :=
  (State.findFrom_skip 0 (by simpa using hno)).trans rfl

/-! ## A comparison inside written visible content -/

section Written

variable (hd : ∀ j, (s.fifo f).addr j < s.depth f) (hwritten : ∀ k < (s.fifo f).occC.toNat, s.content f k ≠ none)
  {k : Nat} (hk : k + pattern.length ≤ (s.fifo f).occC.toNat)
include hd hwritten hk

theorem State.matchAt_written :
    ∃ r, s.matchAt f ((s.fifo f).getIndex + BitVec.ofNat 16 k) pattern = .ok r ∧
      (r = true ↔ s.PatternAt f pattern k) := by
  obtain ⟨r, hr⟩ := State.matchAt_total hd (pattern := pattern)
    (i := (s.fifo f).getIndex + BitVec.ofNat 16 k) fun j hj => by
      rw [State.content_add]
      exact hwritten (k + j) (by omega)
  have hiff := State.matchAt_ok hr
  simp only [State.content_add] at hiff
  exact ⟨r, hr, hiff.trans (and_iff_right hk).symm⟩

theorem State.matchAt_of_patternAt (h : s.PatternAt f pattern k) :
    s.matchAt f ((s.fifo f).getIndex + BitVec.ofNat 16 k) pattern = .ok true := by
  obtain ⟨r, hr, hiff⟩ := State.matchAt_written hd hwritten hk
  rw [hr, hiff.2 h]

theorem State.matchAt_of_not_patternAt (h : ¬ s.PatternAt f pattern k) :
    s.matchAt f ((s.fifo f).getIndex + BitVec.ofNat 16 k) pattern = .ok false := by
  obtain ⟨r, hr, hiff⟩ := State.matchAt_written hd hwritten hk
  rw [hr, Bool.eq_false_iff.2 (mt hiff.1 h)]

end Written

/-! ## The command -/

/-- R130: a pattern longer than the visible content stands nowhere. -/
theorem exec_find_tooLong (hadm : s.Admitted f .consumer .move) (hne : pattern ≠ [])
    (hlen : (s.fifo f).occC.toNat < pattern.length) :
    exec (.find pattern) s = .next (s.respond (errorAnswer (.find pattern) .notFound)) := by
  rw [exec, execFind, if_neg (by simpa using hne), State.atSide_admitted hadm]
  exact if_pos hlen

end Find

/-- Settles O26: a candidate offset is one at which the pattern fits in the visible content, so every comparison of the
search is decided by `PatternAt`. -/
theorem findAnswersFirstMatch : Obligations.FindAnswersFirstMatch := by
  refine ⟨fun s => rfl, fun s f pattern hadm h hne hwritten => ?_⟩
  have hd := h.addr_lt hadm.valid
  refine ⟨fun k hat hfirst => ?found, fun hnone => ?notFound⟩
  case found =>
    have ⟨hfits, _⟩ := hat
    have hsearch := State.findFrom_first (tries := (s.fifo f).occC.toNat - pattern.length + 1) (by omega)
      (fun j hj => State.matchAt_of_not_patternAt hd hwritten (by omega) (hfirst j hj))
      (State.matchAt_of_patternAt hd hwritten hfits hat)
    have hk : k < 65536 := by have := (s.fifo f).occC.isLt; omega
    rw [exec_find_admitted hadm hne (by omega), hsearch, ← countVal_eq_ofNat hk]
    rfl
  case notFound =>
    rcases Nat.lt_or_ge (s.fifo f).occC.toNat pattern.length with hlong | hfits
    · exact exec_find_tooLong hadm hne hlong
    · have hsearch := State.findFrom_none (tries := (s.fifo f).occC.toNat - pattern.length + 1) fun j hj =>
        State.matchAt_of_not_patternAt hd hwritten (by omega) (hnone j)
      rw [exec_find_admitted hadm hne hfits, hsearch]
      rfl

end Sys2Proof.Machine
end

section
/-! The four crossing steps (spec/45_cdc_sync.md R140 to R143): when each is not enabled, and the quiescent states
(R146), where none is. -/

namespace Sys2Proof.Machine

open Sys2Proof

section Disabled

variable {s : State} {f : FifoId}

/-! ## When a step is not enabled -/

theorem launchPut_eq_none_iff :
    launchPut f s = none ↔
      ((s.fifo f).valid = true → s.params.syncEager = false → (s.fifo f).putMail = none →
        (s.fifo f).putIndex = (s.fifo f).putSeen) := by
  simp [launchPut]

theorem launchGet_eq_none_iff :
    launchGet f s = none ↔
      ((s.fifo f).valid = true → s.params.syncEager = false → (s.fifo f).getMail = none →
        (s.fifo f).getIndex = (s.fifo f).getSeen) := by
  simp [launchGet]

theorem landPut_eq_none_iff : landPut f s = none ↔ ((s.fifo f).valid = true → (s.fifo f).putMail = none) := by
  cases hm : (s.fifo f).putMail <;> simp [landPut, hm]

theorem landGet_eq_none_iff : landGet f s = none ↔ ((s.fifo f).valid = true → (s.fifo f).getMail = none) := by
  cases hm : (s.fifo f).getMail <;> simp [landGet, hm]

/-! ## Quiescence -/

theorem Fifo.Eager.no_crossing_enabled (h : (s.fifo f).Eager) :
    launchPut f s = none ∧ landPut f s = none ∧ launchGet f s = none ∧ landGet f s = none := by
  obtain ⟨hputMail, hgetMail, hputSeen, hgetSeen⟩ := h
  exact ⟨launchPut_eq_none_iff.2 fun _ _ _ => hputSeen.symm, landPut_eq_none_iff.2 fun _ => hputMail,
    launchGet_eq_none_iff.2 fun _ _ _ => hgetSeen.symm, landGet_eq_none_iff.2 fun _ => hgetMail⟩

/-- R146: a full mailbox can land, and with an empty one a copy that differs from its index can be launched. -/
theorem Fifo.eager_of_no_crossing_enabled (hv : (s.fifo f).valid = true) (he : s.params.syncEager = false)
    (hlaunchPut : launchPut f s = none) (hlandPut : landPut f s = none) (hlaunchGet : launchGet f s = none)
    (hlandGet : landGet f s = none) : (s.fifo f).Eager := by
  have hputMail := landPut_eq_none_iff.1 hlandPut hv
  have hgetMail := landGet_eq_none_iff.1 hlandGet hv
  exact ⟨hputMail, hgetMail, (launchPut_eq_none_iff.1 hlaunchPut hv he hputMail).symm,
    (launchGet_eq_none_iff.1 hlaunchGet hv he hgetMail).symm⟩

end Disabled

theorem Fifo.Eager.occC_eq_occTrue {x : Fifo} (h : x.Eager) : x.occC = x.occTrue := by
  obtain ⟨-, -, hputSeen, -⟩ := h
  rw [Fifo.occC, Fifo.occTrue, hputSeen]

theorem Fifo.Eager.occP_eq_occTrue {x : Fifo} (h : x.Eager) : x.occP = x.occTrue := by
  obtain ⟨-, -, -, hgetSeen⟩ := h
  rw [Fifo.occP, Fifo.occTrue, hgetSeen]

/-- Settles O50: no LAND is enabled exactly when both mailboxes are empty, and then no LAUNCH is enabled exactly when
both copies equal their index. -/
theorem quiescentIffNoStepEnabled : Obligations.QuiescentIffNoStepEnabled := by
  intro s f
  refine ⟨fun hv he => ⟨?eager, Fifo.Eager.no_crossing_enabled⟩, fun h => ?agree⟩
  case eager =>
    rintro ⟨hlaunchPut, hlandPut, hlaunchGet, hlandGet⟩
    exact Fifo.eager_of_no_crossing_enabled hv he hlaunchPut hlandPut hlaunchGet hlandGet
  case agree => exact ⟨h.occC_eq_occTrue, h.occP_eq_occTrue, h.no_crossing_enabled⟩

/-- Settles O48, step by step. -/
theorem crossingSteps : Obligations.CrossingSteps := fun _ _ _ =>
  ⟨launchPut_eq_some_iff, landPut_eq_some_iff, launchGet_eq_some_iff, landGet_eq_some_iff⟩

end Sys2Proof.Machine
end

section
/-! The two line commands (spec/46_control.md R150, R151): what an ended LINE_STATE or LINE_CODING leaves alone, from its
effects. -/

namespace Sys2Proof.Machine

open Sys2Proof

/-- A change of control registers alone, and a response. -/
theorem frame_of_control_respond {s u : State} (r : Response) (hturns : s.SameTurns u)
    (hports : ∀ p, u.port p = s.port p) (hfifo : ∀ f, u.fifo f = s.fifo f) :
    s.SameTurns (u.respond r) ∧ s.SamePorts (u.respond r) ∧ ∀ f, (u.respond r).fifo f = s.fifo f := by
  obtain ⟨hactive, hnext, hfree⟩ := hturns
  exact ⟨⟨by simp [hactive], by simp [hnext], by simp [hfree]⟩,
    (u.samePorts_respond r).of_core hports hactive, fun f => (u.fifo_respond r f).trans (hfifo f)⟩

/-- R60: a command that only the control port accepts works on no FIFO. -/
theorem State.FifoStep.not_control {s : State} {f : FifoId} {side : Side} {i : Instr} {r : Response} {x : Fifo}
    (hp : i.onProducerPort = false) (hc : i.onConsumerPort = false) : ¬ s.FifoStep f side i r x := by
  intro h
  obtain ⟨-, hp'⟩ | ⟨-, hc'⟩ := h.accepted
  · simp [hp] at hp'
  · simp [hc] at hc'

/-- Settles O38, by the effects of the two commands. -/
theorem frameLineCommands : Obligations.FrameLineCommands := by
  refine ⟨fun dtr rts s t h => ?lineState, fun stopRaw parityRaw dataRaw baud s t h => ?lineCoding⟩
  case lineState =>
    cases exec_effect h with
    | fifo hstep => exact absurd hstep (State.FifoStep.not_control rfl rfl)
    | answer | linkUp | linkDown =>
      exact ⟨by constructor <;> simp, frame_of_control_respond _ ⟨rfl, rfl, rfl⟩ (fun p => by cases p <;> rfl)
        fun f => by cases f <;> rfl⟩
  case lineCoding =>
    cases exec_effect h with
    | fifo hstep => exact absurd hstep (State.FifoStep.not_control rfl rfl)
    | answer | reconfigure =>
      exact ⟨by constructor <;> simp [State.enterReconfiguration], frame_of_control_respond _ ⟨rfl, rfl, rfl⟩
        (fun p => by cases p <;> rfl) fun f => by cases f <;> rfl⟩

end Sys2Proof.Machine
end

section
/-! The sequencer (spec/46_control.md R153 to R161): what its step is in each state, and the seven steps of a whole
reconfiguration in a row. -/

namespace Sys2Proof.Machine

open Sys2Proof

/-! ## The step of each state -/

section Steps

variable {s : State}

theorem fsmStep_of_teardown (h : s.fsm = .teardown) : fsmStep s = some (teardownStep s) := by rw [fsmStep, h]

/-- R155. -/
theorem fsmStep_of_drain (h : s.fsm = .drain) :
    fsmStep s = if s.drained then some { s with fsm := .clear } else none := by
  rw [fsmStep, h]
  rfl

theorem fsmStep_of_validate (h : s.fsm = .validate) : fsmStep s = some (validateStep s) := by rw [fsmStep, h]

theorem fsmStep_of_retime (h : s.fsm = .retime) : fsmStep s = some (retimeStep s) := by rw [fsmStep, h]

theorem fsmStep_of_reinit (h : s.fsm = .reinit) : fsmStep s = some (reinitStep s) := by rw [fsmStep, h]

theorem fsmStep_of_resume (h : s.fsm = .resume) : fsmStep s = some (resumeStep s) := by rw [fsmStep, h]

end Steps

/-- Settles O40. -/
theorem drainWaitsForHardwareWindows : Obligations.DrainWaitsForHardwareWindows := by
  intro s hfsm t
  rw [fsmStep_of_drain hfsm, ← and_assoc, ← State.drained_iff]
  simp [eq_comm (a := t)]

/-- Settles O45. -/
theorem teardownAndReinitDriveUart : Obligations.TeardownAndReinitDriveUart :=
  fun _ => ⟨fsmStep_of_teardown, fsmStep_of_reinit⟩

/-- R161: what `paused` becomes. -/
theorem resumeStep_eq {s : State} {b : Bool} (h : (s.params.resumeRespectsLink && decide (s.link = .inactive)) = b) :
    resumeStep s = { s with paused := b, fsm := .rest } := by
  rw [← h]
  rfl

/-- Settles O46. -/
theorem resumeReturnsToRest : Obligations.ResumeReturnsToRest := by
  intro s hfsm
  rw [fsmStep_of_resume hfsm]
  refine ⟨fun ⟨hrespects, hlink⟩ => ?paused, fun h => ?running⟩
  case paused => exact congrArg some (resumeStep_eq (by simp [hrespects, hlink]))
  case running => exact congrArg some (resumeStep_eq (by obtain h | h := h <;> simp [h]))

/-! ## VALIDATE -/

/-- R158: the supported values of `data_raw`. -/
theorem dataBitsOf_isSome (raw : Byte) : (dataBitsOf raw).isSome = decide (5 ≤ raw.toNat ∧ raw.toNat ≤ 8) := by
  unfold dataBitsOf
  split
  case h_5 h5 h6 h7 h8 =>
    simp only [imp_false] at h5 h6 h7 h8
    rw [Option.isSome_none, eq_comm, decide_eq_false_iff_not]
    omega
  all_goals simp [*]

/-- R158: the supported values of `stop_raw`. -/
theorem stopBitsOf_isSome (raw : Byte) : (stopBitsOf raw).isSome = decide (raw = 0#8 ∨ raw = 2#8) := by
  unfold stopBitsOf
  split <;> simp_all [← BitVec.toNat_inj]

/-- R158: the supported values of `parity_raw`. -/
theorem parityOf_isSome (raw : Byte) : (parityOf raw).isSome = decide (raw.toNat ≤ 2) := by
  unfold parityOf
  split
  case h_4 h0 h1 h2 =>
    simp only [imp_false] at h0 h1 h2
    rw [Option.isSome_none, eq_comm, decide_eq_false_iff_not]
    omega
  all_goals simp [*]

/-- R158: `changed` is set exactly if some field is none of its supported values. -/
theorem coercionNeeded_eq (req : ReqCfg) :
    coercionNeeded req =
      !(decide (5 ≤ req.dataRaw.toNat ∧ req.dataRaw.toNat ≤ 8) && decide (req.stopRaw = 0#8 ∨ req.stopRaw = 2#8) &&
        decide (req.parityRaw.toNat ≤ 2)) := by
  rw [← dataBitsOf_isSome, ← stopBitsOf_isSome, ← parityOf_isSome, Bool.not_and, Bool.not_and, Option.not_isSome,
    Option.not_isSome, Option.not_isSome, coercionNeeded]

theorem dataBitsCode_of_dataBitsOf {raw : Byte} {d : DataBits} (h : dataBitsOf raw = some d) :
    (dataBitsCode d).toNat = raw.toNat := by
  unfold dataBitsOf at h
  split at h <;> cases h <;> simp [dataBitsCode, *]

/-- R158: a supported `data_raw` is kept. -/
theorem coerce_dataBits_code {req : ReqCfg} (h : 5 ≤ req.dataRaw.toNat ∧ req.dataRaw.toNat ≤ 8) :
    (dataBitsCode (coerce req).dataBits).toNat = req.dataRaw.toNat := by
  obtain ⟨d, hd⟩ := Option.isSome_iff_exists.1 ((dataBitsOf_isSome req.dataRaw).trans (decide_eq_true h))
  rw [coerce, hd]
  exact dataBitsCode_of_dataBitsOf hd

theorem coerce_dataBits_default {req : ReqCfg} (h : req.dataRaw.toNat < 5 ∨ 8 < req.dataRaw.toNat) :
    (coerce req).dataBits = .eight := by
  have hnone : dataBitsOf req.dataRaw = none := by
    rw [← Option.not_isSome_iff_eq_none, dataBitsOf_isSome, decide_eq_true_iff]
    omega
  rw [coerce, hnone]
  rfl

theorem coerce_stopBits (req : ReqCfg) : (coerce req).stopBits = if req.stopRaw = 2#8 then .two else .one := by
  unfold coerce stopBitsOf
  dsimp only
  split <;> simp_all [← BitVec.toNat_inj]

theorem coerce_parity (req : ReqCfg) :
    (coerce req).parity = if req.parityRaw = 1#8 then .odd else if req.parityRaw = 2#8 then .even else .none := by
  unfold coerce parityOf
  dsimp only
  split <;> simp_all [← BitVec.toNat_inj]

/-- Settles O43: the settings are `coerce` of the request, field by field. -/
theorem validateResolvesSettings : Obligations.ValidateResolvesSettings := by
  intro s hfsm
  refine ⟨coerce s.reqCfg, ?step, rfl, coerce_dataBits_code, coerce_dataBits_default, ?two, ?one, ?odd, ?even, ?none⟩
  case step => rw [fsmStep_of_validate hfsm, validateStep, coercionNeeded_eq]
  case two | one => exact fun h => by rw [coerce_stopBits]; simp [h]
  case odd | even => exact fun h => by rw [coerce_parity]; simp [h]
  case none => exact fun hodd heven => by rw [coerce_parity, if_neg hodd, if_neg heven]

/-! ## RETIME -/

/-- R197: for a baud rate that is not 0. -/
theorem referencePollFn_toNat {b : Word} (hb : 0 < b.toNat) :
    (referencePollFn b).toNat = max 1000 (160000000 / b.toNat) := by
  have hne : b ≠ 0#32 := by rintro rfl; simp at hb
  have hle := Nat.div_le_self 160000000 b.toNat
  rw [referencePollFn, if_neg hne, BitVec.toNat_ofNat, Nat.mod_eq_of_lt (by omega)]

/-- R196 P2. -/
theorem minTick_le_pollFn (c : PollChoice) (b : Word) : (minTick c).toNat ≤ (pollFn c b).toNat := by
  cases c with
  | unknown => exact Config.unknownPoll.ge_minTick b
  | reference =>
    rcases Nat.eq_zero_or_pos b.toNat with hzero | hpos
    · obtain rfl : b = 0#32 := BitVec.eq_of_toNat_eq hzero
      decide
    · rw [pollFn, referencePollFn_toNat hpos]
      exact Nat.le_max_left 1000 _

/-- R196 P3. -/
theorem pollFn_antitone (c : PollChoice) {b₁ b₂ : Word} (hpos : 0 < b₁.toNat) (hle : b₁.toNat ≤ b₂.toNat) :
    (pollFn c b₂).toNat ≤ (pollFn c b₁).toNat := by
  cases c with
  | unknown => exact Config.unknownPoll.antitone b₁ b₂ hpos hle
  | reference =>
    rw [pollFn, pollFn, referencePollFn_toNat hpos, referencePollFn_toNat (hpos.trans_le hle)]
    exact max_le_max_left 1000 (Nat.div_le_div_left hle hpos)

/-- R196 P4. -/
theorem pollFn_strict (c : PollChoice) : (pollFn c 115200#32).toNat < (pollFn c 9600#32).toNat := by
  cases c with
  | unknown => exact Config.unknownPoll.strict
  | reference => decide

/-- Settles O44, law by law. -/
theorem retimeObeysPollLaws : Obligations.RetimeObeysPollLaws :=
  ⟨fun _ => fsmStep_of_retime, fun c => ⟨minTick_le_pollFn c, fun _ _ => pollFn_antitone c, pollFn_strict c⟩⟩

/-! ## A whole reconfiguration -/

theorem fsmSteps_succ {s t : State} (n : Nat) (h : fsmStep s = some t) : fsmSteps (n + 1) s = fsmSteps n t := by
  rw [fsmSteps, h]

/-- R153: the state after the seven steps from TEARDOWN. -/
def State.reconfigured (s : State) : State :=
  resumeStep (reinitStep (retimeStep (validateStep (clearStep { teardownStep s with fsm := .clear }))))

/-- R153 to R161: with no hardware-side window open nothing holds the sequencer up. -/
theorem fsmSteps_reconfigured {s : State} (hfsm : s.fsm = .teardown) (hdrained : s.drained = true) :
    fsmSteps 7 s = some s.reconfigured := by
  have hdrain : fsmStep (teardownStep s) = some { teardownStep s with fsm := .clear } :=
    (fsmStep_of_drain rfl).trans (if_pos hdrained)
  rw [fsmSteps_succ 6 (fsmStep_of_teardown hfsm), fsmSteps_succ 5 hdrain, fsmSteps_succ 4 (fsmStep_of_clear rfl),
    fsmSteps_succ 3 (fsmStep_of_validate rfl), fsmSteps_succ 2 (fsmStep_of_retime rfl),
    fsmSteps_succ 1 (fsmStep_of_reinit rfl), fsmSteps_succ 0 (fsmStep_of_resume rfl), fsmSteps]
  rfl

theorem State.fifo_reconfigured (s : State) (f : FifoId) : s.reconfigured.fifo f = (s.fifo f).clear := by
  cases f <;> rfl

theorem State.reconfigured_events (s : State) :
    s.reconfigured.events = s.events ++ [.uartDeinit, .uartConfigure (coerce s.reqCfg)] :=
  List.append_assoc s.events [.uartDeinit] [.uartConfigure (coerce s.reqCfg)]

/-- Settles O47: the last state is `s.reconfigured`. -/
theorem reconfigurationEndsInRest : Obligations.ReconfigurationEndsInRest := by
  intro s hfsm hrd hwr
  exact ⟨s.reconfigured, fsmSteps_reconfigured hfsm (s.drained_iff.2 ⟨hrd, hwr⟩), rfl, s.fifo_reconfigured, rfl, rfl, rfl,
    rfl, rfl, s.reconfigured_events, rfl, rfl, rfl⟩

end Sys2Proof.Machine
end

section
/-! The statuses that end a command early (spec/60_exceptions.md R182 to R190): `NotReady` at a closed gate, `Busy`
outside REST, the capacity statuses of the issuing side's view, and `Contract`, the one of these that sets a bit. -/

namespace Sys2Proof.Machine

open Sys2Proof

/-! ## The gate closed -/

/-- R212: what closes a gate. -/
theorem State.gate_eq_false_iff {s : State} {f : FifoId} {side : Side} {cls : CommandClass} :
    s.gate f side cls = false ↔
      ((s.fifo f).valid = false ∨
        (cls = .move ∧ (s.paused = true ∨ (side ≠ taskSide f ∧ s.uartUp = false))) ∨
        (cls = .complete ∧ side = taskSide f ∧ s.paused = true)) := by
  cases cls <;> simp [State.gate, imp_iff_not_or, or_assoc]

section ClosedGate

variable {s : State} {f : FifoId} {side : Side} {cls : CommandClass}

theorem State.atSide_notReady (hport : portRole s.active = some (f, side)) (hgate : s.gate f side cls = false)
    (second : Bool) (k : FifoId → Result) : s.atSide side cls second k = s.raise .notReady second := by
  simp [State.atSide, hport, hgate]

theorem State.atEitherSide_notReady (hport : portRole s.active = some (f, side)) (hgate : s.gate f side cls = false)
    (k : FifoId → Side → Result) : s.atEitherSide cls k = s.raise .notReady := by
  simp [State.atEitherSide, hport, hgate]

end ClosedGate

section AcceptingSide

variable {p : PortId} {f : FifoId} {side : Side} {i : Instr}

/-- R60: only a producer port accepts a command that no consumer port accepts. -/
theorem side_eq_producer_of_accepts (hport : portRole p = some (f, side)) (hi : i.onConsumerPort = false)
    (h : portAccepts p i = true) : side = .producer := by
  cases side with
  | producer => rfl
  | consumer => simp [portAccepts, hport, hi] at h

/-- R60: only a consumer port accepts a command that no producer port accepts. -/
theorem side_eq_consumer_of_accepts (hport : portRole p = some (f, side)) (hi : i.onProducerPort = false)
    (h : portAccepts p i = true) : side = .consumer := by
  cases side with
  | consumer => rfl
  | producer => simp [portAccepts, hport, hi] at h

end AcceptingSide

/-- Settles O8, by the ports that accept the command: those of one side, and those of both. -/
theorem notReadyWhenGateClosed : Obligations.NotReadyWhenGateClosed := by
  intro i s f side cls hport hacc hcls hne hclosed
  have hgate := State.gate_eq_false_iff.2 hclosed
  rw [← State.raise_eq_errorAnswer]
  cases i with
  | put | bulkWrite | peekW | markP | stb =>
    obtain rfl := side_eq_producer_of_accepts hport rfl hacc
    cases hcls
    exact State.atSide_notReady hport hgate _ _
  | get | bulkRead | peekR | markC | peekAt | ldb =>
    obtain rfl := side_eq_consumer_of_accepts hport rfl hacc
    cases hcls
    exact State.atSide_notReady hport hgate _ _
  | find pattern =>
    obtain rfl := side_eq_consumer_of_accepts hport rfl hacc
    cases hcls
    have hpattern : pattern ≠ [] := fun h => hne (congrArg Instr.find h)
    rw [exec, execFind, if_neg (by simpa using hpattern)]
    exact State.atSide_notReady hport hgate _ _
  | elems | free =>
    cases hcls
    exact State.atEitherSide_notReady hport hgate _
  | init | lineCoding | lineState | rdreg => cases hcls

/-! ## Outside REST -/

/-- R162: a control command that is accepted only in REST, in another state. -/
theorem State.atControlInRest_busy {s : State} (hk : s.active = .k) (hfsm : s.fsm ≠ .rest) (k : Result) :
    s.atControlInRest k = s.raise .busy := by
  simp [State.atControlInRest, State.atControl, hk, hfsm]

/-- Settles O9: the three commands share the check. -/
theorem busyOutsideRest : Obligations.BusyOutsideRest := by
  refine ⟨rfl, fun s hk hfsm => ⟨fun f c => ?init, fun dtr rts => ?lineState, fun a b c d => ?lineCoding⟩⟩
  all_goals exact State.atControlInRest_busy hk hfsm _

section Commands

variable {s : State} {f : FifoId}

/-! ## The capacity statuses -/

/-- R90, R182. -/
theorem exec_put_full (b : Byte) (hadm : s.Admitted f .producer .move)
    (hfull : (s.fifo f).occP.toNat = (s.fifo f).capacity.toNat - 1) : exec (.put b) s = s.raise .full := by
  rw [exec, execPut, State.atSide_admitted hadm, if_pos hfull]

/-- R100, R182. -/
theorem exec_bulkWrite_full {payload : List Byte} (hadm : s.Admitted f .producer .move)
    (hlong : (s.fifo f).freeP < payload.length) : exec (.bulkWrite payload) s = s.raise .full := by
  rw [exec, execBulkWrite, State.atSide_admitted hadm, if_pos hlong]

/-- R91, R183. -/
theorem exec_get_empty (hadm : s.Admitted f .consumer .move) (hempty : (s.fifo f).occC = 0#16) :
    exec .get s = s.raise .empty := by
  rw [exec, execGet, State.atSide_admitted hadm, if_pos hempty]

/-- R101, R184. -/
theorem exec_bulkRead_underflow {len : Index} (hadm : s.Admitted f .consumer .move)
    (hlong : (s.fifo f).occC.toNat < len.toNat) : exec (.bulkRead len) s = s.raise .underflow := by
  rw [exec, execBulkRead, State.atSide_admitted hadm, if_pos hlong]

/-- R131, R186. -/
theorem exec_peekAt_outOfRange {index : Index} (hadm : s.Admitted f .consumer .move)
    (hpast : (s.fifo f).occC.toNat ≤ index.toNat) : exec (.peekAt index) s = s.raise .outOfRange := by
  rw [exec, execPeekAt, State.atSide_admitted hadm, if_pos hpast]

/-! ## A breach of the window contract -/

/-- R190: the fault bit and the answer of a command without a second response word. -/
theorem State.raiseContract_eq_errorAnswer {i : Instr} (hi : i.hasSecondWord = false) :
    s.raiseContract f = .next ((s.setFifo f { s.fifo f with fault := true }).respond (errorAnswer i .contract)) := by
  rw [State.raiseContract, ← State.raise_eq_errorAnswer, hi]

/-- R114, R115: an address below a window or past its end. -/
theorem Lease.not_covers_of_outside {l : Lease} {addr : Index}
    (h : addr.toNat < l.ptr.toNat ∨ l.ptr.toNat + l.run.toNat ≤ addr.toNat) : ¬ l.covers addr = true := by
  rw [Lease.covers_iff]
  omega

theorem exec_markC_breach {len : Index} (hadm : s.Admitted f .consumer .complete)
    (hlong : ∀ l ∈ (s.fifo f).rdLease, l.run.toNat < len.toNat) : exec (.markC len) s = s.raiseContract f := by
  rw [exec, execMarkC, State.atSide_admitted hadm]
  cases hl : (s.fifo f).rdLease with
  | none => rfl
  | some l => exact if_pos (hlong l hl)

theorem exec_markP_breach {len : Index} (hadm : s.Admitted f .producer .complete)
    (hlong : ∀ l ∈ (s.fifo f).wrLease, l.run.toNat < len.toNat) : exec (.markP len) s = s.raiseContract f := by
  rw [exec, execMarkP, State.atSide_admitted hadm]
  cases hl : (s.fifo f).wrLease with
  | none => rfl
  | some l => exact if_pos (hlong l hl)

theorem exec_ldb_breach {addr : Index} (hadm : s.Admitted f .consumer .complete)
    (hout : ∀ l ∈ (s.fifo f).rdLease, addr.toNat < l.ptr.toNat ∨ l.ptr.toNat + l.run.toNat ≤ addr.toNat) :
    exec (.ldb addr) s = s.raiseContract f := by
  rw [exec, execLdb, State.atSide_admitted hadm]
  cases hl : (s.fifo f).rdLease with
  | none => rfl
  | some l => exact if_neg (Lease.not_covers_of_outside (hout l hl))

theorem exec_stb_breach {addr : Index} (b : Byte) (hadm : s.Admitted f .producer .complete)
    (hout : ∀ l ∈ (s.fifo f).wrLease, addr.toNat < l.ptr.toNat ∨ l.ptr.toNat + l.run.toNat ≤ addr.toNat) :
    exec (.stb addr b) s = s.raiseContract f := by
  rw [exec, execStb, State.atSide_admitted hadm]
  cases hl : (s.fifo f).wrLease with
  | none => rfl
  | some l => exact if_neg (Lease.not_covers_of_outside (hout l hl))

end Commands

/-- Settles O10: each status is raised by its own comparison, and its answer is all that changes. -/
theorem capacityStatusesChangeNothing : Obligations.CapacityStatusesChangeNothing :=
  ⟨⟨rfl, rfl, rfl, rfl⟩, fun _ _ =>
    ⟨fun hadm => ⟨fun b => exec_put_full b hadm, fun _ => exec_bulkWrite_full hadm⟩,
      fun hadm => ⟨exec_get_empty hadm, fun _ => exec_bulkRead_underflow hadm, fun _ => exec_peekAt_outOfRange hadm⟩⟩⟩

/-- Settles O11: every breach ends in `raiseContract`, and none of the four commands has a second response word. -/
theorem contractBreachSetsFault : Obligations.ContractBreachSetsFault := by
  refine ⟨rfl, fun s f => ⟨fun hadm => ⟨fun len h => ?markC, fun addr h => ?ldb⟩,
    fun hadm => ⟨fun len h => ?markP, fun addr b h => ?stb⟩⟩⟩
  case markC => exact (exec_markC_breach hadm h).trans (State.raiseContract_eq_errorAnswer rfl)
  case ldb => exact (exec_ldb_breach hadm h).trans (State.raiseContract_eq_errorAnswer rfl)
  case markP => exact (exec_markP_breach hadm h).trans (State.raiseContract_eq_errorAnswer rfl)
  case stb => exact (exec_stb_breach b hadm h).trans (State.raiseContract_eq_errorAnswer rfl)

end Sys2Proof.Machine
end

section
/-! The sample words (spec/95_test_vectors.md, spec/30_encoding.md R61, R64, R65, R67): a numbered word without payload
is the command whose encoding it is, by the round trip, and no command where no row of the table covers it. -/

namespace Sys2Proof

/-! ## Numbered words without payload -/

theorem tableWords_toNat {w : Word} (h : payloadWordCount w = 0) : tableWords w.toNat = [w] := by
  simp [tableWords, h]

theorem tableBytes_toNat {w : Word} (h : payloadByteCount w = 0) : tableBytes w.toNat = [] := by
  simp [tableBytes, bytesOfNat, h]

/-- R61, R64, R65: the number of a command's encoding is read as that command. -/
theorem decodeTableWord_of_encodeWord {i : Instr} {n : Nat} (hwf : i.wf = true) (hbytes : encodeBytes i = [])
    (hwords : i.payloadWords = []) (hn : (encodeWord i).toNat = n) : decodeTableWord 32 n = some i := by
  have hdec : decode [encodeWord i] [] = .instr i [] [] := by
    simpa [encodeWords_eq_cons, hwords, hbytes] using decodeEncodeRoundTrip i hwf [] []
  rw [← hn, decodeTableWord, Nat.mod_eq_of_lt (encodeWord i).isLt,
    tableWords_toNat (by simp [payloadWordCount_encodeWord, hwords]),
    tableBytes_toNat (by simp [payloadByteCount_encodeWord hwf, hbytes]), hdec]

/-- R67: the number of a word that no row covers is read as no command. -/
theorem decodeTableWord_of_not_covered {w : Word} (hbytes : payloadByteCount w = 0) (hwords : payloadWordCount w = 0)
    (hrows : ∀ row ∈ opcodeTable, ¬ row.covers w) : decodeTableWord 32 w.toNat = none := by
  obtain ⟨r, hr⟩ := instrOf_of_not_covered hrows (([] : List Byte).take (payloadByteCount w)) 0#32
  rw [decodeTableWord, Nat.mod_eq_of_lt w.isLt, tableWords_toNat hwords, tableBytes_toNat hbytes,
    decode_of_instrOf_error (by simp [hbytes]) (by simp [hwords]) hr]

/-- Settles O3: eight words are what the encoder writes for their commands, and no row covers the last two. -/
theorem sampleWordsDecode : Obligations.SampleWordsDecode := by
  refine ⟨?put, ?bulkRead, ?stb, ?init, ?lineCoding, ?find, ?lineState, ?rdreg, ?reservedBit, ?reservedOpcode⟩
  case put | bulkRead | stb | init | lineState | rdreg => exact decodeTableWord_of_encodeWord rfl rfl rfl rfl
  case lineCoding => exact decodeEncodeRoundTrip (.lineCoding 1#8 4#8 9#8 9600#32) rfl [] []
  case find => exact decodeEncodeRoundTrip (.find [0x0D#8, 0x0A#8]) rfl [] []
  case reservedBit => exact decodeTableWord_of_not_covered (w := 0x08000141#32) rfl rfl (by decide)
  case reservedOpcode => exact decodeTableWord_of_not_covered (w := 0x78000000#32) rfl rfl (by decide)

end Sys2Proof
end
